-- ==== Sys2Proof/Word.lean ====
section
/-! DEFINITION. The machine's value types: bytes, words, the fields of an instruction word, register numbers. -/

namespace Sys2Proof

/-- An 8-bit unsigned value: a V register, a memory byte, a timer, the field NN (00_scope R5, R7). -/
abbrev Byte := BitVec 8

/-- A 16-bit unsigned value: I, pc, a stack slot, an instruction word (00_scope R5). -/
abbrev Word := BitVec 16

/-- The 12-bit address field NNN (30_encoding R71). -/
abbrev Addr12 := BitVec 12

/-- The 4-bit field N, and Y where an instruction ignores it (30_encoding R71, R79). -/
abbrev Nibble := BitVec 4

/-- The number of a V register, 0 to 15; also the number of a key (10_state R21, R32). -/
abbrev Reg := Fin 16

/-- VF, the register that doubles as the flag (10_state R22). -/
abbrev regF : Reg := 15

end Sys2Proof
end

