-- ==== Sys2Proof/Machine/Flags.lean ====
section
/-! DEFINITION. Every flag computation: the value VF becomes, always 0x00 or 0x01 (10_state R22, 42_alu R141). -/

namespace Sys2Proof.Machine

/-- A flag as the whole register VF. -/
def flagByte (b : Bool) : Byte := if b then 1 else 0

/-- Carry out of bit 7: 1 if `a + b > 255` (42_alu R136, R141). -/
def carryFlag (a b : Byte) : Byte := flagByte (a.toNat + b.toNat > 255)

/-- Not borrow of `p - q`: 0 if `p < q`, else 1 (42_alu R137, R139, R141). -/
def notBorrowFlag (p q : Byte) : Byte := flagByte (!decide (p.toNat < q.toNat))

/-- The bit shifted out to the right (42_alu R138). -/
def shiftRightFlag (a : Byte) : Byte := flagByte (a.getLsbD 0)

/-- The bit shifted out to the left (42_alu R140). -/
def shiftLeftFlag (a : Byte) : Byte := flagByte (a.getLsbD 7)

/-- The flag of FX1E: 1 if the exact sum is past 0xFFF (43_index_memory R151). -/
def indexFlag (t : Nat) : Byte := flagByte (t > 0xFFF)

/-- The flag of DXYN: 1 if some pixel went from 1 to 0 (44_display R171). -/
def collisionFlag (hit : Bool) : Byte := flagByte hit

end Sys2Proof.Machine
end

