-- ==== Sys2Proof/Syntax.lean ====
section
/-! DEFINITION. The instructions: one constructor per row of spec/opcode_table.json (30_encoding R84). -/

namespace Sys2Proof

/-- One constructor per row of the opcode map, in its order, with the row's fields (30_encoding R71, R72, R84).
Fields an instruction ignores (R79: N of 5XYN and 9XYN, Y of 8XY6 and 8XYE) are kept, so that no bit of a word
is lost (notes/assumptions/11.md). -/
inductive Instr where
  /-- 00E0 CLS (44_display R170) -/
  | cls
  /-- 00EE RET (41_control_flow R110) -/
  | ret
  /-- 1NNN JP addr (R111) -/
  | jp (nnn : Addr12)
  /-- 2NNN CALL addr (R112) -/
  | call (nnn : Addr12)
  /-- 3XNN SE Vx, byte (R113) -/
  | seImm (x : Reg) (nn : Byte)
  /-- 4XNN SNE Vx, byte (R114) -/
  | sneImm (x : Reg) (nn : Byte)
  /-- 5XYN SE Vx, Vy; n is ignored (R115, R79) -/
  | seReg (x y : Reg) (n : Nibble)
  /-- 6XNN LD Vx, byte (42_alu R130) -/
  | ldImm (x : Reg) (nn : Byte)
  /-- 7XNN ADD Vx, byte (R131) -/
  | addImm (x : Reg) (nn : Byte)
  /-- 8XY0 LD Vx, Vy (R132) -/
  | ldReg (x y : Reg)
  /-- 8XY1 OR Vx, Vy (R133) -/
  | orReg (x y : Reg)
  /-- 8XY2 AND Vx, Vy (R134) -/
  | andReg (x y : Reg)
  /-- 8XY3 XOR Vx, Vy (R135) -/
  | xorReg (x y : Reg)
  /-- 8XY4 ADD Vx, Vy (R136) -/
  | addReg (x y : Reg)
  /-- 8XY5 SUB Vx, Vy (R137) -/
  | subReg (x y : Reg)
  /-- 8XY6 SHR Vx; y is ignored (R138, R79) -/
  | shr (x y : Reg)
  /-- 8XY7 SUBN Vx, Vy (R139) -/
  | subnReg (x y : Reg)
  /-- 8XYE SHL Vx; y is ignored (R140, R79) -/
  | shl (x y : Reg)
  /-- 9XYN SNE Vx, Vy; n is ignored (41_control_flow R116, R79) -/
  | sneReg (x y : Reg) (n : Nibble)
  /-- ANNN LD I, addr (43_index_memory R150) -/
  | ldI (nnn : Addr12)
  /-- BNNN JP V0, addr (41_control_flow R117) -/
  | jpV0 (nnn : Addr12)
  /-- CXNN RND Vx, byte (45_keys_timers_random R180) -/
  | rnd (x : Reg) (nn : Byte)
  /-- DXYN DRW Vx, Vy, nibble (44_display R171) -/
  | drw (x y : Reg) (n : Nibble)
  /-- EX9E SKP Vx (45_keys_timers_random R181) -/
  | skp (x : Reg)
  /-- EXA1 SKNP Vx (R182) -/
  | sknp (x : Reg)
  /-- FX07 LD Vx, DT (R183) -/
  | readDelay (x : Reg)
  /-- FX0A LD Vx, K (R184) -/
  | waitKey (x : Reg)
  /-- FX15 LD DT, Vx (R185) -/
  | writeDelay (x : Reg)
  /-- FX18 LD ST, Vx (R186) -/
  | writeSound (x : Reg)
  /-- FX1E ADD I, Vx (43_index_memory R151) -/
  | addI (x : Reg)
  /-- FX29 LD F, Vx (R152) -/
  | ldFont (x : Reg)
  /-- FX33 LD B, Vx (R153) -/
  | bcd (x : Reg)
  /-- FX55 LD [I], Vx (R154) -/
  | storeRegs (x : Reg)
  /-- FX65 LD Vx, [I] (R155) -/
  | loadRegs (x : Reg)
  /-- 0NNN SYS addr, other than 00E0 and 00EE (30_encoding R85, 60_exceptions R201) -/
  | sys (nnn : Addr12)
deriving DecidableEq, Repr

end Sys2Proof
end

