-- ==== Sys2Proof/WellFormed.lean ====
section
/-! DEFINITION. Which instruction terms stand for words. The types bound every field but one: SYS is the row of lowest
priority and does not have the two words of CLS and RET (30_encoding R85). -/

namespace Sys2Proof

/-- An instruction term is well formed when some word decodes to it: SYS has every NNN but 0x0E0 and 0x0EE. -/
def Instr.wellFormed : Instr → Bool
  | .cls | .ret | .jp _ | .call _ | .seImm _ _ | .sneImm _ _ | .seReg _ _ _ | .ldImm _ _ | .addImm _ _ => true
  | .ldReg _ _ | .orReg _ _ | .andReg _ _ | .xorReg _ _ | .addReg _ _ | .subReg _ _ => true
  | .shr _ _ | .subnReg _ _ | .shl _ _ | .sneReg _ _ _ | .ldI _ | .jpV0 _ | .rnd _ _ | .drw _ _ _ => true
  | .skp _ | .sknp _ | .readDelay _ | .waitKey _ | .writeDelay _ | .writeSound _ | .addI _ | .ldFont _ => true
  | .bcd _ | .storeRegs _ | .loadRegs _ => true
  | .sys nnn => nnn != 0x0E0#12 && nnn != 0x0EE#12

end Sys2Proof
end

