-- ==== Sys2Proof/Config.lean ====
section
/-! DEFINITION. The free values of the machine (00_scope R5): what the environment supplies under no law. -/

namespace Sys2Proof

/-- RND (92_eei_decisions D15, 45_keys_timers_random R180): the n-th random byte the environment supplies.
No body: nothing can be proved of its value. DESIGN CHOICE, safe (notes/assumptions/4.md). -/
opaque Config.rnd : Nat → Byte

/-- KEY_PRIORITY (92_eei_decisions D13, 45_keys_timers_random R184): the n-th free choice among the keys that are
down, used modulo their number. No body. DESIGN CHOICE, safe (notes/assumptions/5.md). -/
opaque Config.keyPick : Nat → Nat

end Sys2Proof
end

