-- ==== Sys2Proof/Machine/Memory.lean ====
section
/-! DEFINITION. The memory as data (10_state R35, 20_memory R50, R51): a list of the bytes that differ from the reset
contents, in one canonical form, with raw reads and writes. The checked accesses MemRead and MemWrite are in Ops. -/

namespace Sys2Proof.Machine

/-- The font glyphs of digits 0 to 7 (20_memory R66). PRESUMED by the spec, unsafe (notes/assumptions/6.md). -/
def fontLow : List Byte :=
  [0xF0, 0x90, 0x90, 0x90, 0xF0,  0x20, 0x60, 0x20, 0x20, 0x70,
   0xF0, 0x10, 0xF0, 0x80, 0xF0,  0xF0, 0x10, 0xF0, 0x10, 0xF0,
   0x90, 0x90, 0xF0, 0x10, 0x10,  0xF0, 0x80, 0xF0, 0x10, 0xF0,
   0xF0, 0x80, 0xF0, 0x90, 0xF0,  0xF0, 0x10, 0x20, 0x40, 0x40]

/-- The font glyphs of digits 8 to F (20_memory R66). -/
def fontHigh : List Byte :=
  [0xF0, 0x90, 0xF0, 0x90, 0xF0,  0xF0, 0x90, 0xF0, 0x10, 0xF0,
   0xF0, 0x90, 0xF0, 0x90, 0x90,  0xE0, 0x90, 0xE0, 0x90, 0xE0,
   0xF0, 0x80, 0x80, 0x80, 0xF0,  0xE0, 0x90, 0x90, 0x90, 0xE0,
   0xF0, 0x80, 0xF0, 0x80, 0xF0,  0xF0, 0x80, 0xF0, 0x80, 0x80]

/-- FONT: the 80 bytes at 0x000 to 0x04F (20_memory R51, R66; 92_eei_decisions D29). -/
def font : List Byte := fontLow ++ fontHigh

/-- Memory: the bytes that differ from the reset contents, by strictly rising address. -/
abbrev Memory := List Host.Cell

/-- What an unlisted address reads as: the reset contents, font then zero (70_reset R234; notes/assumptions/7.md). -/
def Memory.unlisted (a : Nat) : Byte := font.getD a 0

/-- The byte stored at an address, with no check. -/
def Memory.read : Memory → Nat → Byte
  | [], a => Memory.unlisted a
  | c :: m, a => if c.1 = a then c.2 else Memory.read m a

/-- Put a byte into the list at its place. -/
def Memory.insert (a : Nat) (b : Byte) : Memory → Memory
  | [] => [(a, b)]
  | c :: m =>
    if a < c.1 then (a, b) :: c :: m
    else if c.1 = a then (a, b) :: m
    else c :: Memory.insert a b m

/-- Take an address out of the list. -/
def Memory.erase (m : Memory) (a : Nat) : Memory := m.filter (fun c => c.1 != a)

/-- Store a byte at an address, with no check; writing what an unlisted address reads as removes the entry. -/
def Memory.write (m : Memory) (a : Nat) (b : Byte) : Memory :=
  if b = Memory.unlisted a then m.erase a else Memory.insert a b m

/-- The memory that holds `bytes` from `a` upward and the reset contents elsewhere (70_reset R231). -/
def Memory.ofBytes : Nat → List Byte → Memory
  | _, [] => []
  | a, b :: bs => if b = Memory.unlisted a then Memory.ofBytes (a + 1) bs else (a, b) :: Memory.ofBytes (a + 1) bs

/-- The canonical form: addresses strictly rising, no entry equal to what an unlisted address reads as. -/
def Memory.wf (m : Memory) : Bool :=
  decide (m.Pairwise (fun c d => c.1 < d.1)) && m.all (fun c => c.2 != Memory.unlisted c.1)

end Sys2Proof.Machine
end

