-- ==== Sys2Proof/Machine/State.lean ====
section
/-! DEFINITION. The state of the machine (10_state R20 to R42), what a cycle can raise or report, and the state after reset.
Plain data: no field is a function. -/

namespace Sys2Proof.Machine

/-- The cause codes a fault latches (60_exceptions R211, codes 2 to 8). -/
inductive FaultCause where
  /-- code 2 (R206) -/
  | fetchOutOfRange
  /-- code 3 (R204) -/
  | stackOverflow
  /-- code 4 (R205) -/
  | stackUnderflow
  /-- code 5 (R207) -/
  | memReadOutOfRange
  /-- code 6 (R208) -/
  | memWriteOutOfRange
  /-- code 7 (R209) -/
  | protectedWrite
  /-- code 8 (R210) -/
  | keyIndexOutOfRange
deriving DecidableEq, Repr

/-- A fault as a rule raises it, with its recorded value (R211). The value is for diagnostics and is not stored in the
state (R203). -/
inductive Raised where
  | fetchOutOfRange (pc : Word)
  | stackOverflow (pc : Word)
  | stackUnderflow (pc : Word)
  | memReadOutOfRange (addr : Nat)
  | memWriteOutOfRange (addr : Nat)
  | protectedWrite (addr : Nat)
  | keyIndexOutOfRange (k : Byte)
deriving DecidableEq, Repr

/-- What the diagnostic channel carries (10_state R38, 60_exceptions R201, R202, R211: codes 1, 9, 10). -/
inductive Report where
  /-- code 1: an unrecognised word was fetched (R201) -/
  | decodeError (word : Word)
  /-- code 9: reset without a ROM (R202) -/
  | loadMissing
  /-- code 10: reset with a ROM of more than 3584 bytes; the length offered (R202) -/
  | loadTooLarge (length : Nat)
deriving DecidableEq, Repr

/-- Host-level faults: none. Every fault of the spec leaves a state the spec describes (60_exceptions R203) and is taken as
a next state with `fault` latched, so nobody raises a value of this type (notes/assumptions/1.md). -/
inductive Fault where
deriving DecidableEq, Repr

/-- Why a step is refused. -/
inductive Refusal where
  /-- Raised by an arm of `exec` whose instruction has no meaning yet; no arm does. Safe: it proves nothing. -/
  | notModelled (mnemonic : String)
deriving DecidableEq, Repr

/-- The framebuffer: 32 rows of 64 one-bit pixels; pixel (x, y), index x + 64*y, is bit x of row y
(10_state R30, R31; notes/assumptions/10.md). -/
abbrev Framebuffer := Vector (BitVec 64) 32

/-- The whole state (10_state R20), the outputs of the last cycle or reset (R38), and the model's counter of free values. -/
structure State where
  /-- V0 to VF (R21) -/
  V : Vector Byte 16
  /-- the index register (R24) -/
  I : Word
  /-- the program counter (R25) -/
  pc : Word
  /-- the sixteen return-stack slots (R26) -/
  stack : Vector Word 16
  /-- the count of entries pushed, 0 to 16 (R27) -/
  sp : Fin 17
  /-- the delay timer (R28) -/
  DT : Byte
  /-- the sound timer (R29) -/
  ST : Byte
  /-- the framebuffer (R30) -/
  fb : Framebuffer
  /-- the key states, bit k for key k, 1 is down (R32) -/
  keys : BitVec 16
  /-- set by CLS and DRW, cleared by the host (R33) -/
  drawFlag : Bool
  /-- the fault latch; none is code 0 (R34) -/
  fault : Option FaultCause
  /-- the 4096 bytes (R35) -/
  mem : Memory
  /-- output: the sound signal of the last cycle (R38, 40_cycle R97) -/
  beep : Bool
  /-- output: what the last cycle or reset reported (R38) -/
  report : Option Report
  /-- the model's own: how many free values the environment has supplied (notes/assumptions/4.md) -/
  draws : Nat
deriving DecidableEq, Repr

/-- The state after reset with an empty ROM: every value is the one of 70_reset R234 (notes/assumptions/8.md).
`draws` is the model's own (DESIGN CHOICE 0, notes/assumptions/4.md). -/
def State.reset : State where
  V := Vector.replicate 16 0
  I := 0
  pc := 0x200
  stack := Vector.replicate 16 0
  sp := 0
  DT := 0
  ST := 0
  fb := Vector.replicate 32 0
  keys := 0
  drawFlag := false
  fault := none
  mem := []
  beep := false
  report := none
  draws := 0

end Sys2Proof.Machine
end

