-- ==== Sys2Proof/Machine/Operands.lean ====
section
/-! DEFINITION. Every operand form: registers, immediates, addresses through I, keys, pixels of the framebuffer. -/

namespace Sys2Proof.Machine

/-- `V[k]` (10_state R21). -/
def State.reg (s : State) (k : Reg) : Byte := s.V[k]

/-- `V[0]`, …, `V[x]`, the operands of FX55 (43_index_memory R154). -/
def State.regsUpTo (s : State) (x : Reg) : List Byte := s.V.toList.take (x.val + 1)

/-- `zext_16(NNN)` (30_encoding R73). -/
def zextAddr (nnn : Addr12) : Word := nnn.setWidth 16

/-- `zext_16` of a register's value (41_control_flow R117). -/
def zextByte (b : Byte) : Word := b.setWidth 16

/-- The effective address `I + k`, an exact integer (43_index_memory R156, 20_memory R57). -/
def State.ea (s : State) (k : Nat) : Nat := s.I.toNat + k

/-- Whether key `k` is down (10_state R32). -/
def keyDown (keys : BitVec 16) (k : Nat) : Bool := keys.getLsbD k

/-- The keys that are down, lowest first. -/
def downKeys (keys : BitVec 16) : List Reg := (List.finRange 16).filter (fun k => keyDown keys k.val)

/-- `choose(keys)` of 45_keys_timers_random R184: some key that is down, free among them; none when no key is. -/
def chooseKey (pick : Nat) (keys : BitVec 16) : Option Reg :=
  (downKeys keys)[pick % (downKeys keys).length]?

/-- The decimal digits of a byte: hundreds, tens, ones (43_index_memory R153). -/
def bcdDigits (a : Byte) : List Byte :=
  [BitVec.ofNat 8 (a.toNat / 100), BitVec.ofNat 8 (a.toNat / 10 % 10), BitVec.ofNat 8 (a.toNat % 10)]

/-- A screen position: column 0 to 63 from the left, row 0 to 31 from the top (10_state R31). -/
abbrev Pixel := Fin 64 × Fin 32

/-- Position taken modulo the screen size (44_display R173). -/
def screenPos (x y : Nat) : Pixel := (⟨x % 64, Nat.mod_lt x (by decide)⟩, ⟨y % 32, Nat.mod_lt y (by decide)⟩)

/-- The value of a pixel, `fb[x + 64*y]` (10_state R31). -/
def pixel (fb : Framebuffer) (p : Pixel) : Bool := fb[p.2].getLsbD p.1.val

/-- The positions of the set bits of one sprite row byte with its left end at column `x` of row `y`: bit 7 is the
leftmost (44_display R172). -/
def rowPixels (x y : Nat) (b : Byte) : List Pixel :=
  ((List.range 8).filter (fun c => b.getLsbD (7 - c))).map (fun c => screenPos (x + c) y)

/-- The positions of the set bits of a sprite whose next row is drawn at row `y` (44_display R171, R173). -/
def spritePixels (x : Nat) : Nat → List Byte → List Pixel
  | _, [] => []
  | y, b :: bs => rowPixels x y b ++ spritePixels x (y + 1) bs

end Sys2Proof.Machine
end

