-- ==== Sys2Proof/Machine/Ops.lean ====
section
/-! DEFINITION. The named operations: checked memory accesses, writes of each piece of state, raising a fault, reporting,
drawing, the timer step, and the pieces of a cycle. -/

namespace Sys2Proof.Machine

/-- What an instruction answers. -/
abbrev Result := Host.Outcome State Fault Refusal

/-! ### Checked memory accesses (20_memory R55 to R57) -/

/-- `MemRead(addr, 1)` for data (R55). -/
def memRead (m : Memory) (addr : Nat) : Except Raised Byte :=
  if addr > 0xFFF then .error (.memReadOutOfRange addr) else .ok (m.read addr)

/-- `MemWrite(addr, 1, v)` (R56): the range check first, then the protection check. -/
def memWrite (m : Memory) (addr : Nat) (v : Byte) : Except Raised Memory :=
  if addr > 0xFFF then .error (.memWriteOutOfRange addr)
  else if addr < 0x200 then .error (.protectedWrite addr)
  else .ok (m.write addr v)

/-- Reads at `n` rising addresses; the first offending address raises (60_exceptions R207). -/
def memReadBytes (m : Memory) (addr : Nat) : Nat → Except Raised (List Byte)
  | 0 => .ok []
  | n + 1 =>
    match memRead m addr with
    | .error r => .error r
    | .ok b =>
      match memReadBytes m (addr + 1) n with
      | .error r => .error r
      | .ok bs => .ok (b :: bs)

/-- Writes at rising addresses. All or nothing: where any address offends, no memory results, so an instruction that
uses it has checked every address before it commits a byte (60_exceptions R224). -/
def memWriteBytes (m : Memory) (addr : Nat) : List Byte → Except Raised Memory
  | [] => .ok m
  | b :: bs =>
    match memWrite m addr b with
    | .error r => .error r
    | .ok m' => memWriteBytes m' (addr + 1) bs

/-! ### Writes of one piece of state -/

/-- `V[x] <- b`. -/
def State.setReg (s : State) (x : Reg) (b : Byte) : State := { s with V := s.V.set x b }

/-- VF written as the flag, after the result (10_state R22, R23). -/
def State.setFlag (s : State) (b : Byte) : State := s.setReg regF b

/-- `V[k] <- bs[k]` for every `k` the list has; the other registers are unchanged (43_index_memory R155). -/
def State.setRegs (s : State) (bs : List Byte) : State :=
  { s with V := s.V.mapIdx (fun k old => bs.getD k old) }

/-- `I <- w`. -/
def State.setI (s : State) (w : Word) : State := { s with I := w }

/-- `pc <- w`. -/
def State.setPc (s : State) (w : Word) : State := { s with pc := w }

/-- `DT <- b`. -/
def State.setDT (s : State) (b : Byte) : State := { s with DT := b }

/-- `ST <- b`. -/
def State.setST (s : State) (b : Byte) : State := { s with ST := b }

/-- A new memory. -/
def State.setMem (s : State) (m : Memory) : State := { s with mem := m }

/-- A new framebuffer, with `drawFlag <- 1` (44_display R174). -/
def State.setFb (s : State) (fb : Framebuffer) : State := { s with fb := fb, drawFlag := true }

/-- `stack[sp] <- w; sp <- sp + 1` (41_control_flow R112). -/
def State.push (s : State) (w : Word) (h : s.sp.val < 16) : State :=
  { s with stack := s.stack.set s.sp.val w, sp := ⟨s.sp.val + 1, by omega⟩ }

/-- `stack[sp - 1]`, the slot RET reads (41_control_flow R110). -/
def State.top (s : State) (h : 0 < s.sp.val) : Word := s.stack[s.sp.val - 1]'(by omega)

/-- `sp <- sp - 1`; the slot keeps its value (10_state R26). -/
def State.pop (s : State) : State := { s with sp := ⟨s.sp.val - 1, by omega⟩ }

/-- One more free value used. -/
def State.countDraw (s : State) : State := { s with draws := s.draws + 1 }

/-! ### The program counter (40_cycle R95) -/

/-- `pc <- pc + 2`. -/
def State.advance (s : State) : State := s.setPc (s.pc + 2)

/-- `pc <- pc + 4` when the condition holds, else `pc <- pc + 2`. -/
def State.skipIf (s : State) (c : Bool) : State := s.setPc (s.pc + if c then 4 else 2)

/-! ### Abnormal events (60_exceptions) -/

/-- The cause a fault latches (R211). -/
def Raised.cause : Raised → FaultCause
  | .fetchOutOfRange _ => .fetchOutOfRange
  | .stackOverflow _ => .stackOverflow
  | .stackUnderflow _ => .stackUnderflow
  | .memReadOutOfRange _ => .memReadOutOfRange
  | .memWriteOutOfRange _ => .memWriteOutOfRange
  | .protectedWrite _ => .protectedWrite
  | .keyIndexOutOfRange _ => .keyIndexOutOfRange

/-- The cause codes (R211). -/
def FaultCause.code : FaultCause → Nat
  | .fetchOutOfRange => 2
  | .stackOverflow => 3
  | .stackUnderflow => 4
  | .memReadOutOfRange => 5
  | .memWriteOutOfRange => 6
  | .protectedWrite => 7
  | .keyIndexOutOfRange => 8

/-- The codes of the reports (R211). -/
def Report.code : Report → Nat
  | .decodeError _ => 1
  | .loadMissing => 9
  | .loadTooLarge _ => 10

/-- The output `fault` as a code, 0 when none is latched (10_state R34). -/
def State.faultCode (s : State) : Nat :=
  match s.fault with
  | none => 0
  | some c => c.code

/-- `raise F(info)` (R203), on the state the cycle began with: nothing of the cycle is committed, `fault` is latched,
pc is unchanged, beep is 0 and nothing is reported. There is no return from it but reset (R215). -/
def State.raise (s : State) (r : Raised) : State := { s with fault := some r.cause, beep := false, report := none }

/-- `report <- DecodeError(word)`; nothing else changes (R201). -/
def State.reportDecodeError (s : State) (w : Word) : State := { s with report := some (.decodeError w) }

/-! ### The display (44_display) -/

/-- One pixel toggled by XOR. -/
def togglePixel (fb : Framebuffer) (p : Pixel) : Framebuffer :=
  fb.set p.2 (fb[p.2] ^^^ (1#64 <<< p.1.val))

/-- Toggle a list of pixels one after another; the Bool says whether any of them went from 1 to 0 (R171). -/
def drawPixels (fb : Framebuffer) : List Pixel → Framebuffer × Bool
  | [] => (fb, false)
  | p :: ps =>
    let rest := drawPixels (togglePixel fb p) ps
    (rest.1, pixel fb p || rest.2)

/-- Every pixel 0 (R170). -/
def clearedFb : Framebuffer := Vector.replicate 32 0

/-! ### The pieces of a cycle (40_cycle) -/

/-- `beep <- 0; report <- none`, the start of a cycle (R102). -/
def State.clearOutputs (s : State) : State := { s with beep := false, report := none }

/-- Step 1, fetch: the two bytes at pc and pc + 1, big-endian (R92). -/
def fetchWord (s : State) : Except Raised Word :=
  if s.pc.toNat > 0xFFE then .error (.fetchOutOfRange s.pc)
  else .ok (wordOfBytes (s.mem.read s.pc.toNat) (s.mem.read (s.pc.toNat + 1)))

/-- A timer one step later: decremented when nonzero, floor at zero (R96). -/
def timerTick (b : Byte) : Byte := if b = 0 then 0 else b - 1

/-- Step 5, timers and the sound signal (R96, R97). -/
def State.timerStep (s : State) : State :=
  { s with DT := timerTick s.DT, ST := timerTick s.ST, beep := decide (s.ST ≠ 0) }

/-- Whether an instruction returns without commit: FX0A with no key down (45_keys_timers_random R184). -/
def waitsForKey : Instr → State → Bool
  | .waitKey _, s => decide (s.keys = 0)
  | .cls, _ | .ret, _ | .jp _, _ | .call _, _ | .seImm _ _, _ | .sneImm _ _, _ | .seReg _ _ _, _ => false
  | .ldImm _ _, _ | .addImm _ _, _ | .ldReg _ _, _ | .orReg _ _, _ | .andReg _ _, _ | .xorReg _ _, _ => false
  | .addReg _ _, _ | .subReg _ _, _ | .shr _ _, _ | .subnReg _ _, _ | .shl _ _, _ | .sneReg _ _ _, _ => false
  | .ldI _, _ | .jpV0 _, _ | .rnd _ _, _ | .drw _ _ _, _ | .skp _, _ | .sknp _, _ | .readDelay _, _ => false
  | .writeDelay _, _ | .writeSound _, _ | .addI _, _ | .ldFont _, _ | .bcd _, _ | .storeRegs _, _ => false
  | .loadRegs _, _ | .sys _, _ => false

/-- The end of a cycle that executed an instruction from `s0` to `s1`: the timer step, unless it faulted or waits
(R96, R98). -/
def finishCycle (i : Instr) (s0 s1 : State) : State :=
  if s1.fault.isSome || waitsForKey i s0 then s1 else s1.timerStep

end Sys2Proof.Machine
end

