-- ==== Sys2Proof/Machine/Alu.lean ====
section
/-! DEFINITION. Register load, arithmetic and logic (42_alu): results modulo 256, the flag written last. -/

namespace Sys2Proof.Machine

/-- `V[x] <- result; pc <- pc + 2`, no flag. -/
def writeResult (x : Reg) (result : Byte) (s : State) : Result := .next (s.setReg x result).advance

/-- `V[x] <- result; V[0xF] <- flag; pc <- pc + 2` (10_state R23). -/
def writeResultAndFlag (x : Reg) (result flag : Byte) (s : State) : Result :=
  .next ((s.setReg x result).setFlag flag).advance

/-- 6XNN LD Vx, byte (R130). -/
def execLdImm (x : Reg) (nn : Byte) (s : State) : Result := writeResult x nn s

/-- 7XNN ADD Vx, byte (R131). -/
def execAddImm (x : Reg) (nn : Byte) (s : State) : Result := writeResult x (s.reg x + nn) s

/-- 8XY0 LD Vx, Vy (R132). -/
def execLdReg (x y : Reg) (s : State) : Result := writeResult x (s.reg y) s

/-- 8XY1 OR Vx, Vy (R133). -/
def execOrReg (x y : Reg) (s : State) : Result := writeResult x (s.reg x ||| s.reg y) s

/-- 8XY2 AND Vx, Vy (R134). -/
def execAndReg (x y : Reg) (s : State) : Result := writeResult x (s.reg x &&& s.reg y) s

/-- 8XY3 XOR Vx, Vy (R135). -/
def execXorReg (x y : Reg) (s : State) : Result := writeResult x (s.reg x ^^^ s.reg y) s

/-- 8XY4 ADD Vx, Vy (R136). -/
def execAddReg (x y : Reg) (s : State) : Result :=
  writeResultAndFlag x (s.reg x + s.reg y) (carryFlag (s.reg x) (s.reg y)) s

/-- 8XY5 SUB Vx, Vy (R137). -/
def execSubReg (x y : Reg) (s : State) : Result :=
  writeResultAndFlag x (s.reg x - s.reg y) (notBorrowFlag (s.reg x) (s.reg y)) s

/-- 8XY6 SHR Vx (R138); Y is ignored (R79). -/
def execShr (x _y : Reg) (s : State) : Result :=
  writeResultAndFlag x (s.reg x >>> 1) (shiftRightFlag (s.reg x)) s

/-- 8XY7 SUBN Vx, Vy (R139). -/
def execSubnReg (x y : Reg) (s : State) : Result :=
  writeResultAndFlag x (s.reg y - s.reg x) (notBorrowFlag (s.reg y) (s.reg x)) s

/-- 8XYE SHL Vx (R140); Y is ignored (R79). -/
def execShl (x _y : Reg) (s : State) : Result :=
  writeResultAndFlag x (s.reg x <<< 1) (shiftLeftFlag (s.reg x)) s

end Sys2Proof.Machine
end

