-- ==== Sys2Proof/Machine/Display.lean ====
section
/-! DEFINITION. Clear and sprite draw (44_display). -/

namespace Sys2Proof.Machine

/-- 00E0 CLS (R170). -/
def execCls (s : State) : Result := .next (s.setFb clearedFb).advance

/-- DXYN DRW Vx, Vy, nibble (R171): the rows are read first; VX and VY are read before VF is written. -/
def execDrw (x y : Reg) (n : Nibble) (s : State) : Result :=
  match memReadBytes s.mem (s.ea 0) n.toNat with
  | .error r => .next (s.raise r)
  | .ok rows =>
    let drawn := drawPixels s.fb (spritePixels (s.reg x).toNat (s.reg y).toNat rows)
    .next ((s.setFb drawn.1).setFlag (collisionFlag drawn.2)).advance

end Sys2Proof.Machine
end

