-- ==== Sys2Proof/Machine/Environment.lean ====
section
/-! DEFINITION. Keys, timers, random (45_keys_timers_random). -/

namespace Sys2Proof.Machine

/-- CXNN RND Vx, byte (R180): the random byte is a free value. -/
def execRnd (x : Reg) (nn : Byte) (s : State) : Result :=
  .next ((s.countDraw).setReg x (Config.rnd s.draws &&& nn)).advance

/-- The skips on a key: the index is the register's value, and one above 15 raises (R181, R182). -/
def skipOnKey (x : Reg) (wanted : Bool) (s : State) : Result :=
  if (s.reg x).toNat > 15 then .next (s.raise (.keyIndexOutOfRange (s.reg x)))
  else .next (s.skipIf (keyDown s.keys (s.reg x).toNat == wanted))

/-- EX9E SKP Vx (R181). -/
def execSkp (x : Reg) (s : State) : Result := skipOnKey x true s

/-- EXA1 SKNP Vx (R182). -/
def execSknp (x : Reg) (s : State) : Result := skipOnKey x false s

/-- FX07 LD Vx, DT (R183): the value before this cycle's timer step. -/
def execReadDelay (x : Reg) (s : State) : Result := .next (s.setReg x s.DT).advance

/-- FX0A LD Vx, K (R184): with no key down nothing changes; else the index of a key that is down. -/
def execWaitKey (x : Reg) (s : State) : Result :=
  match chooseKey (Config.keyPick s.draws) s.keys with
  | none => .next s
  | some k => .next ((s.countDraw).setReg x (BitVec.ofNat 8 k.val)).advance

/-- FX15 LD DT, Vx (R185). -/
def execWriteDelay (x : Reg) (s : State) : Result := .next (s.setDT (s.reg x)).advance

/-- FX18 LD ST, Vx (R186). -/
def execWriteSound (x : Reg) (s : State) : Result := .next (s.setST (s.reg x)).advance

end Sys2Proof.Machine
end

