-- ==== Sys2Proof/Machine/IndexMemory.lean ====
section
/-! DEFINITION. The index register, BCD, block store and load (43_index_memory). -/

namespace Sys2Proof.Machine

/-- ANNN LD I, addr (R150). -/
def execLdI (nnn : Addr12) (s : State) : Result := .next (s.setI (zextAddr nnn)).advance

/-- FX1E ADD I, Vx (R151): the exact sum, kept modulo 65536, sets VF when it is past 0xFFF. -/
def execAddI (x : Reg) (s : State) : Result :=
  let t := s.I.toNat + (s.reg x).toNat
  .next ((s.setI (BitVec.ofNat 16 t)).setFlag (indexFlag t)).advance

/-- FX29 LD F, Vx (R152). -/
def execLdFont (x : Reg) (s : State) : Result :=
  .next (s.setI (BitVec.ofNat 16 ((s.reg x).toNat * 5))).advance

/-- FX33 LD B, Vx (R153): I is unchanged. -/
def execBcd (x : Reg) (s : State) : Result :=
  match memWriteBytes s.mem (s.ea 0) (bcdDigits (s.reg x)) with
  | .error r => .next (s.raise r)
  | .ok m => .next (s.setMem m).advance

/-- FX55 LD [I], Vx (R154): V0 to VX inclusive; I advances by X + 1. -/
def execStoreRegs (x : Reg) (s : State) : Result :=
  match memWriteBytes s.mem (s.ea 0) (s.regsUpTo x) with
  | .error r => .next (s.raise r)
  | .ok m => .next ((s.setMem m).setI (BitVec.ofNat 16 (s.ea (x.val + 1)))).advance

/-- FX65 LD Vx, [I] (R155): all reads first; I advances by X + 1. -/
def execLoadRegs (x : Reg) (s : State) : Result :=
  match memReadBytes s.mem (s.ea 0) (x.val + 1) with
  | .error r => .next (s.raise r)
  | .ok bs => .next ((s.setRegs bs).setI (BitVec.ofNat 16 (s.ea (x.val + 1)))).advance

end Sys2Proof.Machine
end

