-- ==== Sys2Proof/Machine/System.lean ====
section
/-! DEFINITION. The SYS row (30_encoding R85, 60_exceptions R201). -/

namespace Sys2Proof.Machine

/-- 0NNN SYS addr: an unrecognised word; it is reported and pc stays (R201). -/
def execSys (nnn : Addr12) (s : State) : Result := .next (s.reportDecodeError (encode (.sys nnn)))

end Sys2Proof.Machine
end

