-- ==== Sys2Proof/Machine/Cycle.lean ====
section
/-! DEFINITION. The order of a cycle (40_cycle R90 to R102), the end of a run (00_scope R17), and placing a word where the next cycle fetches. -/

namespace Sys2Proof.Machine

/-- One cycle (R102): a latched fault makes it empty (R99); then fetch (R92), decode (R93), execute and advance
(R94, R95), timers (R96, R97); a fault or a key wait ends it early, a DecodeError does not (R98). -/
def cycle (s : State) : Result :=
  let s0 := s.clearOutputs
  if s.fault.isSome then .next s0
  else
    match fetchWord s with
    | .error r => .next (s0.raise r)
    | .ok w =>
      match decodeWord w with
      | .error _ => .next (s0.reportDecodeError w).timerStep
      | .ok i =>
        match exec i s0 with
        | .next s1 => .next (finishCycle i s0 s1)
        | .fault f => .fault f
        | .refused r => .refused r

/-- The run is over (00_scope R17, the spec's decision D17; notes/assumptions/28.md): no fault is latched and the word at
pc is a jump to itself, 1NNN with NNN = pc. It is no halt: cycles go on, and only DT, ST and the sound signal change. -/
def State.runEnded (s : State) : Bool :=
  s.fault.isNone &&
    match fetchWord s with
    | .error _ => false
    | .ok w => decide (decodeWord w = .ok (.jp (s.pc.setWidth 12)))

/-- `s` with a word stored where the next cycle fetches: at pc, big-endian (20_memory R52). A latched fault is cleared,
and a pc at which no word can be fetched is set to 0x200, since the fetch needs both (notes/assumptions/9.md). -/
def State.placeWord (s : State) (word : Word) : State :=
  let pc : Word := if s.pc.toNat > 0xFFE then 0x200 else s.pc
  { s with
    pc := pc
    fault := none
    mem := (s.mem.write pc.toNat (hiByte word)).write (pc.toNat + 1) (loByte word) }

end Sys2Proof.Machine
end

