-- ==== Sys2Proof/Machine/HostInterface.lean ====
section
/-! DEFINITION. What the outside world can do to the machine (10_state R37, R39; 70_reset R230 to R236): reset with a ROM,
run a cycle, set the key states, acknowledge a draw. -/

namespace Sys2Proof.Machine

/-- `LoadRom(rom)` on the zeroed state (70_reset R231 to R233): the bytes land verbatim from 0x200; a ROM that is absent
or longer than 3584 bytes is reported and nothing is copied. -/
def loadRom (s : State) : Option (List Byte) → State
  | none => { s with report := some .loadMissing }
  | some rom =>
    if rom.length > 3584 then { s with report := some (.loadTooLarge rom.length) }
    else { s with mem := Memory.ofBytes 0x200 rom }

/-- `Reset(rom)` (70_reset R230): the same result whatever the state was. The environment's counter of free values is no
state of the machine and goes on. -/
def State.resetWith (s : State) (rom : Option (List Byte)) : State :=
  loadRom { State.reset with draws := s.draws } rom

/-- The input collaborator writes the 16 key states between cycles (10_state R32, R37). -/
def State.setKeys (s : State) (keys : BitVec 16) : State := { s with keys := keys }

/-- `draw_ack`: `drawFlag <- 0` between cycles (10_state R33, R37). -/
def State.drawAck (s : State) : State := { s with drawFlag := false }

/-- The input events of the core (10_state R37). The random byte is a free value of Config, not an event. -/
inductive Event where
  | reset (rom : Option (List Byte))
  | cycle
  | setKeys (keys : BitVec 16)
  | drawAck
deriving DecidableEq, Repr

/-- What an event does. -/
def handle (e : Event) (s : State) : Result :=
  match e with
  | .reset rom => .next (s.resetWith rom)
  | .cycle => step s
  | .setKeys keys => .next (s.setKeys keys)
  | .drawAck => .next s.drawAck

/-- A history of events, from the first to the last. -/
def runEvents : List Event → State → Result
  | [], s => .next s
  | e :: es, s =>
    match handle e s with
    | .next t => runEvents es t
    | .fault f => .fault f
    | .refused r => .refused r

end Sys2Proof.Machine
end

