-- ==== Sys2Proof/Safety.lean ====
section
/-! DEFINITION. The terms claims use: the parts of the state and what it means that only some of them may change (frames), the
invariant of the machine, what a cycle's timer step leaves, and runs of cycles. -/

namespace Sys2Proof.Machine

/-! ### Frames -/

/-- The parts of the state, down to one register, one stack slot, one pixel, one byte of memory. -/
inductive Part where
  | reg (k : Reg)
  | I
  | pc
  | stackSlot (k : Fin 16)
  | sp
  | DT
  | ST
  | pixel (p : Pixel)
  | keys
  | drawFlag
  | fault
  | byte (a : Nat)
  | beep
  | report
  | draws
deriving DecidableEq, Repr

/-- A part has the same value in two states; a byte of memory is compared by reading it. -/
def Part.same (s t : State) : Part → Prop
  | .reg k => t.reg k = s.reg k
  | .I => t.I = s.I
  | .pc => t.pc = s.pc
  | .stackSlot k => t.stack[k] = s.stack[k]
  | .sp => t.sp = s.sp
  | .DT => t.DT = s.DT
  | .ST => t.ST = s.ST
  | .pixel p => Machine.pixel t.fb p = Machine.pixel s.fb p
  | .keys => t.keys = s.keys
  | .drawFlag => t.drawFlag = s.drawFlag
  | .fault => t.fault = s.fault
  | .byte a => t.mem.read a = s.mem.read a
  | .beep => t.beep = s.beep
  | .report => t.report = s.report
  | .draws => t.draws = s.draws

/-- Every part outside `written` is unchanged from `s` to `t`. -/
def OnlyChanges (written : Part → Prop) (s t : State) : Prop := ∀ p, ¬ written p → p.same s t

/-- The parts a raised fault writes: the latch and the two outputs (60_exceptions R203). -/
def faultParts (p : Part) : Prop := p = .fault ∨ p = .beep ∨ p = .report

/-- `t` is what a fault with cause `c` leaves of `s` (60_exceptions R203, R224): the latch set, no sound, no report, and
nothing else changed. -/
def FaultsFrom (c : FaultCause) (s t : State) : Prop :=
  t.fault = some c ∧ t.beep = false ∧ t.report = none ∧ OnlyChanges faultParts s t

/-! ### The invariant -/

/-- What holds at reset and is kept by every cycle and every host event: memory is in its canonical form and lists only
addresses a program can write (20_memory R51, R56), pc is at most 0x10FE (10_state R25), every pushed stack slot is the
address of a fetched instruction (41_control_flow R110), and a latched fault comes with no sound and no report
(60_exceptions R203). -/
structure State.Inv (s : State) : Prop where
  mem_wf : s.mem.wf = true
  mem_range : ∀ c ∈ s.mem, 0x200 ≤ c.1 ∧ c.1 ≤ 0xFFF
  pc_le : s.pc.toNat ≤ 0x10FE
  pushed_le : ∀ k : Fin 16, k.val < s.sp.val → (s.stack[k]).toNat ≤ 0xFFE
  quiet : s.fault.isSome = true → s.beep = false ∧ s.report = none

/-! ### Cycles -/

/-- `pc <- pc + 2`, in numbers (40_cycle R95). -/
def Advances (s t : State) : Prop := t.pc.toNat = (s.pc.toNat + 2) % 65536

/-- The word at pc, where one can be fetched (40_cycle R92). -/
def State.wordAtPc (s : State) : Word := wordOfBytes (s.mem.read s.pc.toNat) (s.mem.read (s.pc.toNat + 1))

/-- The cycle gets as far as decoding: no fault is latched and both bytes of the word are in memory (40_cycle R92, R99). -/
def State.fetches (s : State) : Prop := s.fault = none ∧ s.pc.toNat ≤ 0xFFE

/-- Whether a word selects one of the 34 instructions (30_encoding R80): it decodes, and not to the SYS row. -/
def recognised (w : Word) : Bool :=
  match decodeWord w with
  | .ok (.sys _) => false
  | .ok _ => true
  | .error _ => false

/-- `t` is `u` after the timer step (40_cycle R96, R97), said in numbers: each timer one less, floor at zero; beep exactly
when the sound timer was not zero; nothing else changed. -/
def TimersStepped (u t : State) : Prop :=
  t.DT.toNat = u.DT.toNat - 1 ∧ t.ST.toNat = u.ST.toNat - 1 ∧ t.beep = decide (u.ST.toNat ≠ 0) ∧
    OnlyChanges (fun p => p = .DT ∨ p = .ST ∨ p = .beep) u t

/-- This cycle is a key wait with no key down (45_keys_timers_random R184). -/
def State.waits (s : State) : Prop := (∃ x, decodeWord s.wordAtPc = .ok (.waitKey x)) ∧ s.keys = 0

/-- The delay timer as this cycle's instruction leaves it to the timer step: FX15 writes it, nothing else does
(10_state R28). -/
def State.delayWritten (s : State) : Byte :=
  match decodeWord s.wordAtPc with
  | .ok (.writeDelay x) => s.reg x
  | _ => s.DT

/-- The sound timer as this cycle's instruction leaves it to the timer step: FX18 writes it, nothing else does
(10_state R29). -/
def State.soundWritten (s : State) : Byte :=
  match decodeWord s.wordAtPc with
  | .ok (.writeSound x) => s.reg x
  | _ => s.ST

/-- `t` is reached from `s` by `n` cycles. -/
def Cycles (n : Nat) (s t : State) : Prop := Host.Core.run Sys2Proof.core n s = .next t

/-! ### Reset -/

/-- Every piece of state but memory and the report is at its reset value (70_reset R234). -/
def ZeroedState (t : State) : Prop :=
  (∀ k, t.reg k = 0) ∧ t.I = 0 ∧ t.pc.toNat = 0x200 ∧ (∀ k : Fin 16, t.stack[k] = 0) ∧ t.sp.val = 0 ∧ t.DT = 0 ∧
    t.ST = 0 ∧ (∀ p, pixel t.fb p = false) ∧ t.keys = 0 ∧ t.drawFlag = false ∧ t.fault = none ∧ t.beep = false

/-- Memory holds the font, then zeros up to 0x1FF, then `rom` from 0x200, then zeros up to 0xFFF (70_reset R231, R234). -/
def HoldsFontAndRom (m : Memory) (rom : List Byte) : Prop :=
  ∀ a ≤ 0xFFF, m.read a =
    if a < 0x50 then font.getD a 0 else if a < 0x200 then 0 else rom.getD (a - 0x200) 0

/-! ### The display -/

/-- Some set bit of the sprite `n` rows high at I, drawn at (VX, VY), lands on pixel `q`: bit 7 of a row byte is the
leftmost, and positions are taken modulo the screen (44_display R171 to R173). -/
def SpriteCovers (s : State) (x y : Reg) (n : Nibble) (q : Pixel) : Prop :=
  ∃ r < n.toNat, ∃ c < 8, (s.mem.read (s.ea r)).getLsbD (7 - c) = true ∧
    q.1.val = ((s.reg x).toNat + c) % 64 ∧ q.2.val = ((s.reg y).toNat + r) % 32

/-! ### Which instructions do what -/

/-- The eight instructions that may raise an execute-time fault (60_exceptions R211). -/
def mayFault : Instr → Bool
  | .call _ | .ret | .drw _ _ _ | .loadRegs _ | .bcd _ | .storeRegs _ | .skp _ | .sknp _ => true
  | .cls | .jp _ | .seImm _ _ | .sneImm _ _ | .seReg _ _ _ | .ldImm _ _ | .addImm _ _ | .ldReg _ _ => false
  | .orReg _ _ | .andReg _ _ | .xorReg _ _ | .addReg _ _ | .subReg _ _ | .shr _ _ | .subnReg _ _ => false
  | .shl _ _ | .sneReg _ _ _ | .ldI _ | .jpV0 _ | .rnd _ _ | .readDelay _ | .waitKey _ => false
  | .writeDelay _ | .writeSound _ | .addI _ | .ldFont _ | .sys _ => false

/-- The instructions that write VF as a flag (10_state R22). -/
def writesFlag : Instr → Bool
  | .addReg _ _ | .subReg _ _ | .shr _ _ | .subnReg _ _ | .shl _ _ | .drw _ _ _ | .addI _ => true
  | .cls | .ret | .jp _ | .call _ | .seImm _ _ | .sneImm _ _ | .seReg _ _ _ | .ldImm _ _ | .addImm _ _ => false
  | .ldReg _ _ | .orReg _ _ | .andReg _ _ | .xorReg _ _ | .sneReg _ _ _ | .ldI _ | .jpV0 _ | .rnd _ _ => false
  | .skp _ | .sknp _ | .readDelay _ | .waitKey _ | .writeDelay _ | .writeSound _ | .ldFont _ | .bcd _ => false
  | .storeRegs _ | .loadRegs _ | .sys _ => false

/-- The instructions that write VF as a plain destination: 6FNN, 7FNN, 8FY0 to 8FY3, CFNN, FF07, FF0A and FF65
(10_state R22). -/
def writesVFPlainly : Instr → Bool
  | .ldImm x _ | .addImm x _ | .rnd x _ | .readDelay x | .waitKey x | .loadRegs x => x == regF
  | .ldReg x _ | .orReg x _ | .andReg x _ | .xorReg x _ => x == regF
  | .addReg _ _ | .subReg _ _ | .shr _ _ | .subnReg _ _ | .shl _ _ | .drw _ _ _ | .addI _ => false
  | .cls | .ret | .jp _ | .call _ | .seImm _ _ | .sneImm _ _ | .seReg _ _ _ => false
  | .sneReg _ _ _ | .ldI _ | .jpV0 _ => false
  | .skp _ | .sknp _ | .writeDelay _ | .writeSound _ | .ldFont _ | .bcd _ => false
  | .storeRegs _ | .sys _ => false

/-- The instructions that read the key states (40_cycle R91). -/
def readsKeys : Instr → Bool
  | .skp _ | .sknp _ | .waitKey _ => true
  | .cls | .ret | .jp _ | .call _ | .seImm _ _ | .sneImm _ _ | .seReg _ _ _ | .ldImm _ _ | .addImm _ _ => false
  | .ldReg _ _ | .orReg _ _ | .andReg _ _ | .xorReg _ _ | .addReg _ _ | .subReg _ _ | .shr _ _ => false
  | .subnReg _ _ | .shl _ _ | .sneReg _ _ _ | .ldI _ | .jpV0 _ | .rnd _ _ | .drw _ _ _ => false
  | .readDelay _ | .writeDelay _ | .writeSound _ | .addI _ | .ldFont _ | .bcd _ => false
  | .storeRegs _ | .loadRegs _ | .sys _ => false

end Sys2Proof.Machine
end

