-- ==== Sys2Proof/Certificates/Slice0/Obligations.lean ====
section
/-! DEFINITION. The statements for the provers, in the order of OBLIGATIONS.json. Numbers are natural numbers, so that wrapping
is said out loud; `OnlyChanges` is the frame; `FaultsFrom c` is what a fault leaves (60_exceptions R203). -/

open Sys2Proof Sys2Proof.Machine

/-! ### Encoding (30_encoding) -/

/-- No bit of an encoding is dropped: the decoder gives back every well-formed instruction from its word, with every
operand at every value (30_encoding R70 to R86). -/
def Obligations.DecodingAnEncodedInstructionGivesItBack : Prop :=
  ∀ i : Instr, i.wellFormed = true → decodeWord (encode i) = .ok i

/-- A decoded instruction is well formed and encodes to exactly its word: decoding loses no bit, N of 5XYN and 9XYN
and Y of 8XY6 and 8XYE among them. That the term keeps those ignored fields is the model's choice
(notes/assumptions/11.md). -/
def Obligations.EncodingADecodedWordGivesItBack : Prop :=
  ∀ (w : Word) (i : Instr), decodeWord w = .ok i → encode i = w ∧ i.wellFormed = true

/-- The decoder reads a word as the first row of the opcode map that the word selects by `w & mask = match`, and
refuses exactly the words that select no row (30_encoding R84, R85, R86). The last place of the SYS row is the spec's
own decision (D23; notes/assumptions/12.md). -/
def Obligations.DecoderIsTheOpcodeMapInFirstMatchOrder : Prop :=
  ∀ w : Word,
    (∀ i, decodeWord w = .ok i →
      ∃ r, opcodeRows.find? (fun r => r.selects w) = some r ∧ r.mnemonic = i.mnemonic) ∧
    (∀ e, decodeWord w = .error e → opcodeRows.find? (fun r => r.selects w) = none)

/-- The unrecognised words, family by family (30_encoding R80, with R75 to R78). Which bits are compared, and that N
of 5XYN and 9XYN is not, are the spec's own decisions (D4, D5; notes/assumptions/11.md, 12.md). -/
def Obligations.UnrecognisedWordsAreExactlyTheUnusedSubcodes : Prop :=
  ∀ w : Word, recognised w = false ↔
    (fieldOp w = 0x0 ∧ w ≠ 0x00E0 ∧ w ≠ 0x00EE) ∨
    (fieldOp w = 0x8 ∧ fieldN w ∈ ([0x8, 0x9, 0xA, 0xB, 0xC, 0xD, 0xF] : List Nibble)) ∨
    (fieldOp w = 0xE ∧ fieldNN w ∉ ([0x9E, 0xA1] : List Byte)) ∨
    (fieldOp w = 0xF ∧
      fieldNN w ∉ ([0x07, 0x0A, 0x15, 0x18, 0x1E, 0x29, 0x33, 0x55, 0x65] : List Byte))

/-- A few words written out from the patterns of 30_encoding R84 decode to the instructions they stand for. That 5AB7
is an SE is the spec's own decision (D5; notes/assumptions/11.md). -/
def Obligations.WrittenWordsDecode : Prop :=
  decodeWord 0x00E0 = .ok .cls ∧ decodeWord 0x2ABC = .ok (.call 0xABC) ∧ decodeWord 0x3A42 = .ok (.seImm 10 0x42) ∧
  decodeWord 0x5AB7 = .ok (.seReg 10 11 0x7) ∧ decodeWord 0x8AB6 = .ok (.shr 10 11) ∧
  decodeWord 0xDAF1 = .ok (.drw 10 15 0x1) ∧ decodeWord 0xEAA1 = .ok (.sknp 10) ∧
  decodeWord 0xF155 = .ok (.storeRegs 1) ∧ decodeWord 0x0123 = .ok (.sys 0x123) ∧
  decodeWord 0x8AB9 = .error .noFamily8Operation

/-! ### The cycle (40_cycle, 60_exceptions) -/

/-- A step runs the decoded instruction: where the word at pc decodes to `i`, the cycle is `exec i` on the state with
the outputs cleared; then the timer step, unless the instruction faulted or is a key wait with no key down (40_cycle
R92 to R98). The timer step after SYS is the spec's own decision (D16; notes/assumptions/16.md), the division of a
cycle between `exec` and `step` the model's (notes/assumptions/2.md). -/
def Obligations.StepRunsTheDecodedInstruction : Prop :=
  ∀ (s t : State) (i : Instr), s.fetches → decodeWord s.wordAtPc = .ok i → exec i s.clearOutputs = .next t →
    ∃ u, step s = .next u ∧
      ((t.fault ≠ none ∨ ((∃ x, i = .waitKey x) ∧ s.keys = 0)) → u = t) ∧
      ((t.fault = none ∧ ¬ ((∃ x, i = .waitKey x) ∧ s.keys = 0)) → TimersStepped t u)

/-- No cycle is stopped from outside the state: every state has a next state (60_exceptions R200, R203: a fault of the
spec is a state too). That a fault is a next state is the model's choice (notes/assumptions/1.md). -/
def Obligations.EveryCycleAnswersANextState : Prop :=
  ∀ s : State, ∃ t, step s = .next t

/-- DecodeError (60_exceptions R201): an unrecognised word is reported, pc and everything else stay, no fault is
latched, and the timer step runs. That the timers run is the spec's own decision (D16; notes/assumptions/16.md). -/
def Obligations.UnrecognisedWordIsReportedAndTimersRun : Prop :=
  ∀ s : State, s.fetches → recognised s.wordAtPc = false →
    ∃ t, step s = .next t ∧ t.report = some (.decodeError s.wordAtPc) ∧ t.fault = none ∧
      t.DT.toNat = s.DT.toNat - 1 ∧ t.ST.toNat = s.ST.toNat - 1 ∧ t.beep = decide (s.ST.toNat ≠ 0) ∧
      OnlyChanges (fun p => p = .report ∨ p = .DT ∨ p = .ST ∨ p = .beep) s t

/-- A DecodeError never clears itself (60_exceptions R225): after any number of cycles the same word is reported, pc
has not moved, and the timers have counted down. R225 is an inference the spec marks as its own; it rests on D16
(notes/assumptions/16.md). -/
def Obligations.DecodeErrorRecursForEver : Prop :=
  ∀ (s : State) (n : Nat), s.fetches → recognised s.wordAtPc = false →
    ∃ t, Cycles (n + 1) s t ∧ t.report = some (.decodeError s.wordAtPc) ∧ t.fault = none ∧
      t.DT.toNat = s.DT.toNat - (n + 1) ∧ t.ST.toNat = s.ST.toNat - (n + 1) ∧ t.beep = decide (n < s.ST.toNat) ∧
      OnlyChanges (fun p => p = .report ∨ p = .DT ∨ p = .ST ∨ p = .beep) s t

/-- FetchOutOfRange, code 2 (60_exceptions R206): a cycle that begins with pc above 0xFFE faults. The fault is the
spec's own decision (D8, D18; notes/assumptions/22.md). -/
def Obligations.FetchBeyondMemoryFaults : Prop :=
  ∀ s : State, s.fault = none → s.pc.toNat > 0xFFE →
    ∃ t, step s = .next t ∧ FaultsFrom .fetchOutOfRange s t ∧ t.faultCode = 2

/-- A cycle that starts with a latched fault does nothing, and so does every later one (40_cycle R99). The latch is
the spec's own decision (D18; notes/assumptions/22.md). -/
def Obligations.FaultedMachineDoesNothing : Prop :=
  ∀ (s : State) (n : Nat), s.fault ≠ none →
    ∃ t, Cycles (n + 1) s t ∧ t.beep = false ∧ t.report = none ∧
      OnlyChanges (fun p => p = .beep ∨ p = .report) s t

/-- Faults are precise (60_exceptions R203, R224): a faulting cycle leaves the state exactly as it found it, apart
from the latch and the two outputs. The spec's own decision (D18; notes/assumptions/22.md). -/
def Obligations.FaultsArePrecise : Prop :=
  ∀ (s t : State) (c : FaultCause), s.fault = none → step s = .next t → t.fault = some c → FaultsFrom c s t

/-- Only 2NNN, 00EE, DXYN, FX65, FX33, FX55, EX9E and EXA1 raise anything in execution; the other instructions never
fault (60_exceptions R211). The faults are the spec's own decisions (D7, D8, D9, D12; notes/assumptions/22.md). -/
def Obligations.OnlyEightInstructionsFault : Prop :=
  ∀ (i : Instr) (s t : State), exec i s = .next t → mayFault i = false → t.fault = s.fault

/-- The timer step (40_cycle R96) runs, on the values this cycle's instruction left, in every cycle but three kinds:
one that starts with a latched fault, one that faults, and a key wait with no key down; in those the timers are
unchanged and no sound is signalled. That it runs in a DecodeError cycle is the spec's own decision (D16;
notes/assumptions/16.md). -/
def Obligations.TimersStepInEveryCycleButThreeKinds : Prop :=
  ∀ s t : State, step s = .next t →
    ((s.fault ≠ none ∨ t.fault ≠ none ∨ s.waits) → t.DT = s.DT ∧ t.ST = s.ST ∧ t.beep = false) ∧
    ((s.fault = none ∧ t.fault = none ∧ ¬ s.waits) →
      t.DT.toNat = s.delayWritten.toNat - 1 ∧ t.ST.toNat = s.soundWritten.toNat - 1 ∧
        t.beep = decide (s.soundWritten.toNat ≠ 0))

/-- The end of a run (00_scope R17): a state in which a word can be fetched and is 1NNN with NNN = pc. A latched fault,
a DecodeError loop and a key wait with no key down are not ends of a run. The definition is the spec's own decision (D17;
notes/assumptions/28.md). -/
def Obligations.RunEndsExactlyAtASelfJump : Prop :=
  ∀ s : State,
    (s.runEnded = true ↔ s.fetches ∧ s.wordAtPc.toNat = 0x1000 + s.pc.toNat) ∧
    ((s.fault ≠ none ∨ recognised s.wordAtPc = false ∨ s.waits) → s.runEnded = false)

/-- From the end of a run on only the timers and the sound signal still change, the run stays ended, and a sound timer of
n gives exactly n cycles of sound (00_scope R17, 41_control_flow R111, 40_cycle R97). The end of a run is the spec's own
decision (D17; notes/assumptions/28.md), the count of sound cycles its inference; a report of an earlier cycle is cleared
by the first. -/
def Obligations.SelfJumpOnlyRunsTheTimers : Prop :=
  ∀ (s : State) (n : Nat), s.runEnded = true →
    ∃ t, Cycles (n + 1) s t ∧ t.runEnded = true ∧ t.DT.toNat = s.DT.toNat - (n + 1) ∧
      t.ST.toNat = s.ST.toNat - (n + 1) ∧ t.beep = decide (n < s.ST.toNat) ∧ t.report = none ∧
      OnlyChanges (fun p => p = .DT ∨ p = .ST ∨ p = .beep ∨ p = .report) s t

/-- The key wait freezes the timers (70_reset R239, 45_keys_timers_random R184): with no key down, after any number of
cycles of FX0A nothing has changed, no sound is signalled and nothing is reported. R239 is an inference the spec marks
as its own. -/
def Obligations.KeyWaitFreezesTheMachine : Prop :=
  ∀ (s : State) (x : Reg) (n : Nat), s.fetches → decodeWord s.wordAtPc = .ok (.waitKey x) → s.keys = 0 →
    ∃ t, Cycles (n + 1) s t ∧ t.beep = false ∧ t.report = none ∧
      OnlyChanges (fun p => p = .beep ∨ p = .report) s t

/-- The key states matter only to EX9E, EXA1 and FX0A, and the environment's free values only to CXNN and FX0A
(40_cycle R91): any other instruction does the same with other keys and other draws. That FX0A too uses a free value
is the model's choice (notes/assumptions/5.md). -/
def Obligations.KeysAndRandomMatterOnlyToTheirInstructions : Prop :=
  ∀ (i : Instr) (s t : State), exec i s = .next t →
    (readsKeys i = false → ∀ keys, exec i (s.setKeys keys) = .next (t.setKeys keys)) ∧
    ((∀ x nn, i ≠ .rnd x nn) → (∀ x, i ≠ .waitKey x) →
      ∀ n, exec i { s with draws := n } = .next { t with draws := n })

/-! ### Reset and the host (70_reset, 10_state) -/

/-- Reset with a ROM of at most 3584 bytes, whatever the state was: ROM byte i stands at 0x200 + i, below it font then
zeros, above it zeros, every other piece of state is at its reset value, and nothing is reported (70_reset R230, R231,
R234). Reset from any state (D1), drawFlag 0 (D21) and the font bytes (G1) are the spec's own (notes/assumptions/6.md,
8.md, 21.md). -/
def Obligations.ResetLoadsTheRomOverFontAndZeros : Prop :=
  ∀ (s : State) (rom : List Byte), rom.length ≤ 3584 →
    ∃ t, handle (.reset (some rom)) s = .next t ∧ ZeroedState t ∧ HoldsFontAndRom t.mem rom ∧ t.report = none

/-- A ROM longer than 3584 bytes is reported with its length and no byte of it is copied: every piece of state is at
its reset value and memory holds font and zeros (70_reset R232; the recorded length 60_exceptions R202). Reset from
any state (D1), drawFlag 0 (D21) and the font bytes (G1) are the spec's own (notes/assumptions/6.md, 8.md, 21.md). -/
def Obligations.TooLargeRomIsReportedAndNotCopied : Prop :=
  ∀ (s : State) (rom : List Byte), rom.length > 3584 →
    ∃ t, handle (.reset (some rom)) s = .next t ∧ ZeroedState t ∧ HoldsFontAndRom t.mem [] ∧
      t.report = some (.loadTooLarge rom.length)

/-- A reset with no ROM is reported and leaves every piece of state at its reset value, memory with font and zeros
(70_reset R233; 60_exceptions R202). That the zeroed state has the font is an inference the spec marks as its own.
Reset from any state (D1), drawFlag 0 (D21) and the font bytes (G1) are the spec's own (notes/assumptions/6.md, 8.md,
21.md). -/
def Obligations.MissingRomIsReported : Prop :=
  ∀ s : State,
    ∃ t, handle (.reset none) s = .next t ∧ ZeroedState t ∧ HoldsFontAndRom t.mem [] ∧ t.report = some .loadMissing

/-- Between two cycles the host may change the keys, may clear drawFlag, and changes nothing else (10_state R39). The
interface is the spec's own decision (D1, D30; notes/assumptions/14.md). -/
def Obligations.HostChangesOnlyKeysAndDrawFlag : Prop :=
  ∀ (s : State) (keys : BitVec 16),
    (∃ t, handle (.setKeys keys) s = .next t ∧ t.keys = keys ∧ OnlyChanges (fun p => p = .keys) s t) ∧
    (∃ t, handle .drawAck s = .next t ∧ t.drawFlag = false ∧ OnlyChanges (fun p => p = .drawFlag) s t)

/-- The host's helper for placing an instruction word does place it: the next cycle fetches exactly that word. The
helper is the model's own (notes/assumptions/9.md). -/
def Obligations.PlacedWordIsTheNextOneFetched : Prop :=
  ∀ (s : State) (w : Nat), w < 65536 →
    (s.withFetchWord 16 w).fetches ∧ (s.withFetchWord 16 w).wordAtPc.toNat = w

/-! ### Whole-machine rules -/

/-- drawFlag: set by every 00E0 and every DXYN that does not fault, set by nothing else, and cleared by no instruction
(44_display R174, 10_state R33, R36). That the core only ever sets it (D21; notes/assumptions/21.md) and what a
faulting DXYN does (D8, D18; notes/assumptions/22.md) are the spec's own decisions. -/
def Obligations.DrawFlagIsSetByClearAndDrawAlone : Prop :=
  ∀ (i : Instr) (s t : State), s.fault = none → exec i s = .next t →
    (t.drawFlag = true ↔
      s.drawFlag = true ∨ i = .cls ∨ ((∃ x y n, i = .drw x y n) ∧ t.fault = none))

/-- VF is written only by the instructions that write it as a flag and by those whose destination it is; where it is
written as a flag its value is 0 or 1 (10_state R22). That 8XY0 to 8XY3 leave VF alone and that the flag wins when X
is 0xF are the spec's own decisions (D19, D6; notes/assumptions/17.md, 13.md). -/
def Obligations.VFIsWrittenOnlyByItsInstructions : Prop :=
  ∀ (i : Instr) (s t : State), exec i s = .next t →
    (writesFlag i = false → writesVFPlainly i = false → t.reg regF = s.reg regF) ∧
    (writesFlag i = true → s.fault = none → t.fault = none → (t.reg regF).toNat ≤ 1)

/-- Each part is written only by the instructions the spec names: the stack and sp by 2NNN and 00EE (10_state R26,
R27), DT by FX15 and ST by FX18 before the timer step (R28, R29), pixels by 00E0 and DXYN (R30), memory by FX33 and
FX55 (20_memory R68), I by ANNN, FX1E, FX29, FX55 and FX65 (10_state R24), the keys by none (R32). Which timer
instruction writes which timer (G4) and that FX33 and DXYN leave I alone (D26) are the spec's own
(notes/assumptions/19.md, 20.md). -/
def Obligations.EachPartIsWrittenOnlyByItsInstructions : Prop :=
  ∀ (i : Instr) (s t : State), exec i s = .next t →
    ((∀ n, i ≠ .call n) → i ≠ .ret → t.sp = s.sp ∧ t.stack = s.stack) ∧
    ((∀ x, i ≠ .writeDelay x) → t.DT = s.DT) ∧
    ((∀ x, i ≠ .writeSound x) → t.ST = s.ST) ∧
    (i ≠ .cls → (∀ x y n, i ≠ .drw x y n) → ∀ p, pixel t.fb p = pixel s.fb p) ∧
    ((∀ x, i ≠ .bcd x) → (∀ x, i ≠ .storeRegs x) → ∀ a, t.mem.read a = s.mem.read a) ∧
    ((∀ n, i ≠ .ldI n) → (∀ x, i ≠ .addI x ∧ i ≠ .ldFont x ∧ i ≠ .storeRegs x ∧ i ≠ .loadRegs x) → t.I = s.I) ∧
    t.keys = s.keys

/-- Addresses below 0x200 are never written by program instructions, and there are none above 0xFFF (20_memory R51,
R56): no cycle changes what they read as. The mechanism, a fault, is the spec's own decision (D8, D9;
notes/assumptions/22.md). -/
def Obligations.NoCycleWritesOutsideProgramMemory : Prop :=
  ∀ (s t : State) (a : Nat), step s = .next t → (a < 0x200 ∨ 0xFFF < a) → t.mem.read a = s.mem.read a

/-- The invariant holds at reset. Its bounds on pc and the stack are inferences the spec marks as its own. -/
def Obligations.ResetStateHasTheInvariant : Prop := State.reset.Inv

/-- Every cycle keeps the invariant: memory's canonical form and range, pc at most 0x10FE (10_state R25), pushed slots
at most 0xFFE (41_control_flow R110), a latched fault silent (60_exceptions R203). The bounds are inferences the spec
marks as its own, the form of memory the model's choice (notes/assumptions/7.md). -/
def Obligations.EveryCycleKeepsTheInvariant : Prop :=
  ∀ s t : State, s.Inv → step s = .next t → t.Inv

/-- The invariant holds after every history of host events and cycles, resets with any ROM among them, from every
state that has it. The host events are the model's (notes/assumptions/14.md). -/
def Obligations.EveryHistoryKeepsTheInvariant : Prop :=
  ∀ (es : List Event) (s t : State), s.Inv → runEvents es s = .next t → t.Inv

/-! ### Memory (20_memory) -/

/-- MemWrite (20_memory R56): the range check, the protection check, and what a store changes. Both checks are the
spec's own decisions (D8, D9; notes/assumptions/22.md). -/
def Obligations.MemWriteChecksAndStoresOneByte : Prop :=
  ∀ (m : Memory) (addr : Nat) (v : Byte),
    (addr > 0xFFF → memWrite m addr v = .error (.memWriteOutOfRange addr)) ∧
    (addr < 0x200 → memWrite m addr v = .error (.protectedWrite addr)) ∧
    (0x200 ≤ addr → addr ≤ 0xFFF →
      ∃ m', memWrite m addr v = .ok m' ∧ ∀ a, m'.read a = if a = addr then v else m.read a)

/-- The model's choice of how memory is held (notes/assumptions/7.md): two memories in canonical form that read the same
everywhere are the same list. -/
def Obligations.MemoriesThatReadAlikeAreEqual : Prop :=
  ∀ m m' : Memory, m.wf = true → m'.wf = true → (∀ a, m.read a = m'.read a) → m = m'

/-- A store is seen by every later instruction fetch (20_memory R63): after FX55, a fetch at any two stored bytes
reads them, the lower address as the high byte (R52). In part an inference the spec marks as its own. -/
def Obligations.StoredBytesAreFetchedAsTheyStand : Prop :=
  ∀ (s t : State) (x k j : Reg), s.fault = none → exec (.storeRegs x) s = .next t → t.fault = none →
    k.val + 1 = j.val → j ≤ x →
    ∀ u : State, u.mem = t.mem → u.pc.toNat = s.ea k.val →
      u.wordAtPc.toNat = (s.reg k).toNat * 256 + (s.reg j).toNat

/-! ### Control flow (41_control_flow) -/

/-- 00EE RET (41_control_flow R110) and StackUnderflow (60_exceptions R205). The fault is the spec's own decision (D7;
notes/assumptions/22.md). -/
def Obligations.ReturnPopsTheStack : Prop :=
  ∀ s : State,
    (∀ h : 0 < s.sp.val, ∃ t, exec .ret s = .next t ∧ t.sp.val = s.sp.val - 1 ∧
      t.pc.toNat = ((s.stack[s.sp.val - 1]'(by omega)).toNat + 2) % 65536 ∧
      OnlyChanges (fun p => p = .sp ∨ p = .pc) s t) ∧
    (s.sp.val = 0 → ∃ t, exec .ret s = .next t ∧ FaultsFrom .stackUnderflow s t ∧ t.faultCode = 4)

/-- 2NNN CALL (41_control_flow R112) and StackOverflow (60_exceptions R204). The fault is the spec's own decision (D7;
notes/assumptions/22.md). -/
def Obligations.CallPushesItsOwnAddress : Prop :=
  ∀ (s : State) (nnn : Addr12),
    (∀ h : s.sp.val < 16, ∃ t, exec (.call nnn) s = .next t ∧ t.stack[s.sp.val] = s.pc ∧
      t.sp.val = s.sp.val + 1 ∧ t.pc.toNat = nnn.toNat ∧
      OnlyChanges (fun p => p = .stackSlot ⟨s.sp.val, h⟩ ∨ p = .sp ∨ p = .pc) s t) ∧
    (s.sp.val = 16 → ∃ t, exec (.call nnn) s = .next t ∧ FaultsFrom .stackOverflow s t ∧ t.faultCode = 3)

/-- A RET after a CALL lands on the word after the CALL with the stack count restored, whatever ran between, as long as
it left the stack as the CALL did (41_control_flow R110, R112). -/
def Obligations.ReturnComesBackAfterTheCall : Prop :=
  ∀ (s t u : State) (nnn : Addr12), s.sp.val < 16 → exec (.call nnn) s = .next t → u.sp = t.sp → u.stack = t.stack →
    ∃ v, exec .ret u = .next v ∧ v.pc.toNat = (s.pc.toNat + 2) % 65536 ∧ v.sp = s.sp

/-- 1NNN JP (41_control_flow R111). NNN may be odd or below 0x200; that such an address can then be fetched from is
the spec's own decision (D3, D25; notes/assumptions/26.md). -/
def Obligations.JumpSetsPc : Prop :=
  ∀ (s : State) (nnn : Addr12),
    ∃ t, exec (.jp nnn) s = .next t ∧ t.pc.toNat = nnn.toNat ∧ OnlyChanges (fun p => p = .pc) s t

/-- BNNN JP V0 (41_control_flow R117): the sum is not cut to 12 bits. -/
def Obligations.JumpWithOffsetAddsV0 : Prop :=
  ∀ (s : State) (nnn : Addr12),
    ∃ t, exec (.jpV0 nnn) s = .next t ∧ t.pc.toNat = nnn.toNat + (s.reg 0).toNat ∧ t.pc.toNat ≤ 0x10FE ∧
      OnlyChanges (fun p => p = .pc) s t

/-- 3XNN SE and 4XNN SNE (41_control_flow R113, R114). -/
def Obligations.SkipsCompareWithAnImmediate : Prop :=
  ∀ (s : State) (x : Reg) (nn : Byte),
    (∃ t, exec (.seImm x nn) s = .next t ∧ OnlyChanges (fun p => p = .pc) s t ∧
      t.pc.toNat = (s.pc.toNat + if s.reg x = nn then 4 else 2) % 65536) ∧
    (∃ t, exec (.sneImm x nn) s = .next t ∧ OnlyChanges (fun p => p = .pc) s t ∧
      t.pc.toNat = (s.pc.toNat + if s.reg x ≠ nn then 4 else 2) % 65536)

/-- 5XYN SE and 9XYN SNE, with any low nibble (41_control_flow R115, R116). That the low nibble is ignored is the
spec's own decision (D5; notes/assumptions/11.md). -/
def Obligations.SkipsCompareTwoRegisters : Prop :=
  ∀ (s : State) (x y : Reg) (n : Nibble),
    (∃ t, exec (.seReg x y n) s = .next t ∧ OnlyChanges (fun p => p = .pc) s t ∧
      t.pc.toNat = (s.pc.toNat + if s.reg x = s.reg y then 4 else 2) % 65536) ∧
    (∃ t, exec (.sneReg x y n) s = .next t ∧ OnlyChanges (fun p => p = .pc) s t ∧
      t.pc.toNat = (s.pc.toNat + if s.reg x ≠ s.reg y then 4 else 2) % 65536)

/-! ### Arithmetic and logic (42_alu) -/

/-- 6XNN LD and 7XNN ADD, no flag (42_alu R130, R131). -/
def Obligations.ImmediateLoadAndAddWriteVX : Prop :=
  ∀ (s : State) (x : Reg) (nn : Byte),
    (∃ t, exec (.ldImm x nn) s = .next t ∧ t.reg x = nn ∧ Advances s t ∧
      OnlyChanges (fun p => p = .reg x ∨ p = .pc) s t) ∧
    (∃ t, exec (.addImm x nn) s = .next t ∧ (t.reg x).toNat = ((s.reg x).toNat + nn.toNat) % 256 ∧ Advances s t ∧
      OnlyChanges (fun p => p = .reg x ∨ p = .pc) s t)

/-- 8XY0 LD, 8XY1 OR, 8XY2 AND, 8XY3 XOR, bit by bit; VF is not touched (42_alu R132 to R135). The four operations
(G2) and VF untouched (D19) are the spec's own (notes/assumptions/17.md, 18.md). -/
def Obligations.CopyAndBitwiseOperationsWriteVX : Prop :=
  ∀ (s : State) (x y : Reg),
    (∃ t, exec (.ldReg x y) s = .next t ∧ t.reg x = s.reg y ∧ Advances s t ∧
      OnlyChanges (fun p => p = .reg x ∨ p = .pc) s t) ∧
    (∃ t, exec (.orReg x y) s = .next t ∧ Advances s t ∧ OnlyChanges (fun p => p = .reg x ∨ p = .pc) s t ∧
      ∀ k, (t.reg x).getLsbD k = ((s.reg x).getLsbD k || (s.reg y).getLsbD k)) ∧
    (∃ t, exec (.andReg x y) s = .next t ∧ Advances s t ∧ OnlyChanges (fun p => p = .reg x ∨ p = .pc) s t ∧
      ∀ k, (t.reg x).getLsbD k = ((s.reg x).getLsbD k && (s.reg y).getLsbD k)) ∧
    (∃ t, exec (.xorReg x y) s = .next t ∧ Advances s t ∧ OnlyChanges (fun p => p = .reg x ∨ p = .pc) s t ∧
      ∀ k, (t.reg x).getLsbD k = ((s.reg x).getLsbD k ^^ (s.reg y).getLsbD k))

/-- 8XY4 ADD (42_alu R136): the sum modulo 256, VF the carry, the flag winning when X is 0xF. The addition (G2) and
the flag winning (D6) are the spec's own (notes/assumptions/13.md, 18.md). -/
def Obligations.AddWritesSumAndCarry : Prop :=
  ∀ (s : State) (x y : Reg),
    ∃ t, exec (.addReg x y) s = .next t ∧ Advances s t ∧
      (x ≠ regF → (t.reg x).toNat = ((s.reg x).toNat + (s.reg y).toNat) % 256) ∧
      (t.reg regF).toNat = (if (s.reg x).toNat + (s.reg y).toNat > 255 then 1 else 0) ∧
      OnlyChanges (fun p => p = .reg x ∨ p = .reg regF ∨ p = .pc) s t

/-- 8XY5 SUB and 8XY7 SUBN (42_alu R137, R139): the difference modulo 256, VF 0 on borrow, else 1; the flag wins when
X is 0xF. The flag winning is the spec's own decision (D6; notes/assumptions/13.md). -/
def Obligations.SubtractionsWriteDifferenceAndNotBorrow : Prop :=
  ∀ (s : State) (x y : Reg),
    (∃ t, exec (.subReg x y) s = .next t ∧ Advances s t ∧
      (x ≠ regF → (t.reg x).toNat = (256 + (s.reg x).toNat - (s.reg y).toNat) % 256) ∧
      (t.reg regF).toNat = (if (s.reg x).toNat < (s.reg y).toNat then 0 else 1) ∧
      OnlyChanges (fun p => p = .reg x ∨ p = .reg regF ∨ p = .pc) s t) ∧
    (∃ t, exec (.subnReg x y) s = .next t ∧ Advances s t ∧
      (x ≠ regF → (t.reg x).toNat = (256 + (s.reg y).toNat - (s.reg x).toNat) % 256) ∧
      (t.reg regF).toNat = (if (s.reg y).toNat < (s.reg x).toNat then 0 else 1) ∧
      OnlyChanges (fun p => p = .reg x ∨ p = .reg regF ∨ p = .pc) s t)

/-- 8XY6 SHR and 8XYE SHL (42_alu R138, R140): VX shifted in place, VF the bit shifted out, VY neither read nor
written; the flag wins when X is 0xF. The flag winning is the spec's own decision (D6; notes/assumptions/13.md). -/
def Obligations.ShiftsMoveOneBitAndKeepItInVF : Prop :=
  ∀ (s : State) (x y : Reg),
    (∃ t, exec (.shr x y) s = .next t ∧ Advances s t ∧
      (x ≠ regF → (t.reg x).toNat = (s.reg x).toNat / 2) ∧
      (t.reg regF).toNat = (s.reg x).toNat % 2 ∧
      OnlyChanges (fun p => p = .reg x ∨ p = .reg regF ∨ p = .pc) s t) ∧
    (∃ t, exec (.shl x y) s = .next t ∧ Advances s t ∧
      (x ≠ regF → (t.reg x).toNat = (s.reg x).toNat * 2 % 256) ∧
      (t.reg regF).toNat = (s.reg x).toNat / 128 ∧
      OnlyChanges (fun p => p = .reg x ∨ p = .reg regF ∨ p = .pc) s t)

/-! ### Index register and memory (43_index_memory) -/

/-- ANNN LD I, addr (43_index_memory R150). -/
def Obligations.IndexLoadWritesTheAddress : Prop :=
  ∀ (s : State) (nnn : Addr12),
    ∃ t, exec (.ldI nnn) s = .next t ∧ t.I.toNat = nnn.toNat ∧ Advances s t ∧ OnlyChanges (fun p => p = .I ∨ p = .pc) s t

/-- FX29 LD F, Vx (43_index_memory R152): five times the whole byte, not its low nibble. No masking is the spec's own
decision (D20; notes/assumptions/20.md). -/
def Obligations.FontAddressIsFiveTimesVX : Prop :=
  ∀ (s : State) (x : Reg),
    ∃ t, exec (.ldFont x) s = .next t ∧ t.I.toNat = (s.reg x).toNat * 5 ∧ Advances s t ∧
      OnlyChanges (fun p => p = .I ∨ p = .pc) s t

/-- FX1E ADD I (43_index_memory R151): the sum modulo 65536, VF 1 when the exact sum is above 0xFFF, else 0. The
16-bit sum is the spec's own decision (D20; notes/assumptions/20.md). -/
def Obligations.IndexAddWritesSumAndFlag : Prop :=
  ∀ (s : State) (x : Reg),
    ∃ t, exec (.addI x) s = .next t ∧ Advances s t ∧ t.I.toNat = (s.I.toNat + (s.reg x).toNat) % 65536 ∧
      (t.reg regF).toNat = (if s.I.toNat + (s.reg x).toNat > 0xFFF then 1 else 0) ∧
      OnlyChanges (fun p => p = .I ∨ p = .reg regF ∨ p = .pc) s t

/-- FX33 LD B (43_index_memory R153) and its two faults (60_exceptions R208, R209). The faults and I unchanged are the
spec's own decisions (D8, D9, D26; notes/assumptions/20.md, 22.md). -/
def Obligations.BcdStoresThreeDigitsOrFaults : Prop :=
  ∀ (s : State) (x : Reg),
    (0x200 ≤ s.ea 0 → s.ea 2 ≤ 0xFFF →
      ∃ t, exec (.bcd x) s = .next t ∧ Advances s t ∧
        (t.mem.read (s.ea 0)).toNat = (s.reg x).toNat / 100 ∧
        (t.mem.read (s.ea 1)).toNat = (s.reg x).toNat / 10 % 10 ∧
        (t.mem.read (s.ea 2)).toNat = (s.reg x).toNat % 10 ∧
        OnlyChanges (fun p => p = .byte (s.ea 0) ∨ p = .byte (s.ea 1) ∨ p = .byte (s.ea 2) ∨ p = .pc) s t) ∧
    (s.ea 2 > 0xFFF → ∃ t, exec (.bcd x) s = .next t ∧ FaultsFrom .memWriteOutOfRange s t ∧ t.faultCode = 6) ∧
    (s.ea 0 < 0x200 → ∃ t, exec (.bcd x) s = .next t ∧ FaultsFrom .protectedWrite s t ∧ t.faultCode = 7)

/-- FX55 LD [I] (43_index_memory R154) and its two faults (60_exceptions R208, R209). The faults are the spec's own
decisions (D8, D9; notes/assumptions/22.md). -/
def Obligations.BlockStoreWritesV0ToVXOrFaults : Prop :=
  ∀ (s : State) (x : Reg),
    (0x200 ≤ s.ea 0 → s.ea x.val ≤ 0xFFF →
      ∃ t, exec (.storeRegs x) s = .next t ∧ Advances s t ∧ t.I.toNat = s.I.toNat + x.val + 1 ∧
        (∀ k : Reg, k ≤ x → t.mem.read (s.ea k.val) = s.reg k) ∧
        OnlyChanges (fun p => (∃ k : Reg, k ≤ x ∧ p = .byte (s.ea k.val)) ∨ p = .I ∨ p = .pc) s t) ∧
    (s.ea x.val > 0xFFF →
      ∃ t, exec (.storeRegs x) s = .next t ∧ FaultsFrom .memWriteOutOfRange s t ∧ t.faultCode = 6) ∧
    (s.ea 0 < 0x200 → ∃ t, exec (.storeRegs x) s = .next t ∧ FaultsFrom .protectedWrite s t ∧ t.faultCode = 7)

/-- FX65 LD Vx, [I] (43_index_memory R155) and its fault (60_exceptions R207); reading below 0x200 is allowed. The
fault is the spec's own decision (D8; notes/assumptions/22.md). -/
def Obligations.BlockLoadReadsV0ToVXOrFaults : Prop :=
  ∀ (s : State) (x : Reg),
    (s.ea x.val ≤ 0xFFF →
      ∃ t, exec (.loadRegs x) s = .next t ∧ Advances s t ∧ t.I.toNat = s.I.toNat + x.val + 1 ∧
        (∀ k : Reg, k ≤ x → t.reg k = s.mem.read (s.ea k.val)) ∧
        OnlyChanges (fun p => (∃ k : Reg, k ≤ x ∧ p = .reg k) ∨ p = .I ∨ p = .pc) s t) ∧
    (s.ea x.val > 0xFFF →
      ∃ t, exec (.loadRegs x) s = .next t ∧ FaultsFrom .memReadOutOfRange s t ∧ t.faultCode = 5)

/-! ### Display (44_display) -/

/-- 00E0 CLS (44_display R170). -/
def Obligations.ClearZeroesEveryPixel : Prop :=
  ∀ s : State,
    ∃ t, exec .cls s = .next t ∧ (∀ p, pixel t.fb p = false) ∧ t.drawFlag = true ∧ Advances s t ∧
      OnlyChanges (fun p => (∃ q, p = .pixel q) ∨ p = .drawFlag ∨ p = .pc) s t

/-- DXYN DRW (44_display R171 to R174) and its fault (60_exceptions R207): every pixel a set sprite bit lands on is
toggled and no other; VF is 1 exactly when one of them was set; drawFlag is set. The bit order (D10), the wrap at the
edges (D11), the fault (D8) and I unchanged (D26) are the spec's own decisions (notes/assumptions/10.md, 15.md, 20.md,
22.md). -/
def Obligations.DrawTogglesTheSpriteAndReportsCollision : Prop :=
  ∀ (s : State) (x y : Reg) (n : Nibble),
    ((n.toNat = 0 ∨ s.ea (n.toNat - 1) ≤ 0xFFF) →
      ∃ t, exec (.drw x y n) s = .next t ∧ Advances s t ∧ t.drawFlag = true ∧
        (∀ q, SpriteCovers s x y n q → pixel t.fb q = !pixel s.fb q) ∧
        ((∃ q, SpriteCovers s x y n q ∧ pixel s.fb q = true) → (t.reg regF).toNat = 1) ∧
        ((¬ ∃ q, SpriteCovers s x y n q ∧ pixel s.fb q = true) → (t.reg regF).toNat = 0) ∧
        OnlyChanges (fun p => (∃ q, SpriteCovers s x y n q ∧ p = .pixel q) ∨ p = .reg regF ∨ p = .drawFlag ∨
          p = .pc) s t) ∧
    (n.toNat ≠ 0 → s.ea (n.toNat - 1) > 0xFFF →
      ∃ t, exec (.drw x y n) s = .next t ∧ FaultsFrom .memReadOutOfRange s t ∧ t.faultCode = 5)

/-- Drawing the same sprite twice at the same place restores the framebuffer, at every position, and the second draw
reports a collision exactly when some sprite pixel was clear before the first (44_display R171, 95_test_vectors S4).
`u` is any state after the first draw with the same coordinates, index and memory, since the first draw may have
written VF. At the edges it rests on D11 (notes/assumptions/15.md); why the collision is said this way is
notes/assumptions/25.md. -/
def Obligations.DrawingTwiceRestoresTheFramebuffer : Prop :=
  ∀ (s t u : State) (x y : Reg) (n : Nibble), (n.toNat = 0 ∨ s.ea (n.toNat - 1) ≤ 0xFFF) →
    exec (.drw x y n) s = .next t →
    u.fb = t.fb → u.mem = s.mem → u.I = s.I → u.reg x = s.reg x → u.reg y = s.reg y →
    ∃ v, exec (.drw x y n) u = .next v ∧ v.fb = s.fb ∧
      ((v.reg regF).toNat = 1 ↔ ∃ q, SpriteCovers s x y n q ∧ pixel s.fb q = false)

/-! ### Keys, timers, random (45_keys_timers_random) -/

/-- CXNN RND (45_keys_timers_random R180): the environment's byte, whatever it is, ANDed with NN; every bit that is 0
in NN is 0 in VX. `Config.rnd` is a free value (notes/assumptions/4.md). The counter `draws` is the model's. -/
def Obligations.RandomByteIsMasked : Prop :=
  ∀ (s : State) (x : Reg) (nn : Byte),
    ∃ t, exec (.rnd x nn) s = .next t ∧ Advances s t ∧
      (∀ k, (t.reg x).getLsbD k = ((Config.rnd s.draws).getLsbD k && nn.getLsbD k)) ∧
      (∀ k, nn.getLsbD k = false → (t.reg x).getLsbD k = false) ∧ t.draws = s.draws + 1 ∧
      OnlyChanges (fun p => p = .reg x ∨ p = .pc ∨ p = .draws) s t

/-- EX9E SKP and EXA1 SKNP (45_keys_timers_random R181, R182) and KeyIndexOutOfRange (60_exceptions R210). The fault
is the spec's own decision (D12; notes/assumptions/22.md). -/
def Obligations.KeySkipsTestTheKeyVXNames : Prop :=
  ∀ (s : State) (x : Reg),
    ((s.reg x).toNat ≤ 15 →
      (∃ t, exec (.skp x) s = .next t ∧ OnlyChanges (fun p => p = .pc) s t ∧
        t.pc.toNat = (s.pc.toNat + if s.keys.getLsbD (s.reg x).toNat = true then 4 else 2) % 65536) ∧
      (∃ t, exec (.sknp x) s = .next t ∧ OnlyChanges (fun p => p = .pc) s t ∧
        t.pc.toNat = (s.pc.toNat + if s.keys.getLsbD (s.reg x).toNat = false then 4 else 2) % 65536)) ∧
    ((s.reg x).toNat > 15 →
      (∃ t, exec (.skp x) s = .next t ∧ FaultsFrom .keyIndexOutOfRange s t ∧ t.faultCode = 8) ∧
      (∃ t, exec (.sknp x) s = .next t ∧ FaultsFrom .keyIndexOutOfRange s t ∧ t.faultCode = 8))

/-- FX07 LD Vx, DT; FX15 LD DT, Vx; FX18 LD ST, Vx, before the timer step (45_keys_timers_random R183, R185, R186).
Which of the three does what is general knowledge in the spec (G4; notes/assumptions/19.md). -/
def Obligations.TimerMovesCopyOneByte : Prop :=
  ∀ (s : State) (x : Reg),
    (∃ t, exec (.readDelay x) s = .next t ∧ t.reg x = s.DT ∧ Advances s t ∧
      OnlyChanges (fun p => p = .reg x ∨ p = .pc) s t) ∧
    (∃ t, exec (.writeDelay x) s = .next t ∧ t.DT = s.reg x ∧ Advances s t ∧
      OnlyChanges (fun p => p = .DT ∨ p = .pc) s t) ∧
    (∃ t, exec (.writeSound x) s = .next t ∧ t.ST = s.reg x ∧ Advances s t ∧
      OnlyChanges (fun p => p = .ST ∨ p = .pc) s t)

/-- FX0A LD Vx, K (45_keys_timers_random R184): with no key down no state changes; else VX is the index of a key that
is down, of the only one when there is one. Which key, when several are down, is a free value
(notes/assumptions/5.md). The spec leaves it open (D13). -/
def Obligations.KeyWaitDeliversAKeyThatIsDown : Prop :=
  ∀ (s : State) (x : Reg),
    (s.keys = 0 → exec (.waitKey x) s = .next s) ∧
    (s.keys ≠ 0 →
      ∃ t, exec (.waitKey x) s = .next t ∧ Advances s t ∧ (t.reg x).toNat ≤ 15 ∧
        s.keys.getLsbD (t.reg x).toNat = true ∧
        (∀ j, (∀ k, s.keys.getLsbD k = true → k = j) → (t.reg x).toNat = j) ∧
        OnlyChanges (fun p => p = .reg x ∨ p = .pc ∨ p = .draws) s t)

/-! ### SYS (30_encoding R85) -/

/-- 0NNN SYS has the behaviour of an unrecognised word (30_encoding R85, 60_exceptions R201): its own word is reported
and nothing else changes, pc among it. The behaviour of SYS is the spec's own decision (D23; notes/assumptions/12.md).
-/
def Obligations.SysReportsItsOwnWord : Prop :=
  ∀ (s : State) (nnn : Addr12),
    ∃ t w, exec (.sys nnn) s = .next t ∧ t.report = some (.decodeError w) ∧ w.toNat = nnn.toNat ∧
      OnlyChanges (fun p => p = .report) s t
end

