-- ==== Sys2Proof/Laws/Encoding.lean ====
section
/-! SUPPORT. The bits of the three instruction formats, and each field read back from each format. -/

namespace Sys2Proof

@[simp] theorem regOf_regBits (x : Reg) : regOf (regBits x) = x := by revert x; decide

@[simp] theorem regBits_regOf (b : BitVec 4) : regBits (regOf b) = b := by revert b; decide

theorem getLsbD_formatNNN (op : BitVec 4) (nnn : Addr12) (i : Nat) :
    (formatNNN op nnn).getLsbD i = if i < 12 then nnn.getLsbD i else op.getLsbD (i - 12) := by
  show (op ++ nnn).getLsbD i = _
  exact BitVec.getLsbD_append

theorem getLsbD_formatXNN (op : BitVec 4) (x : Reg) (nn : Byte) (i : Nat) :
    (formatXNN op x nn).getLsbD i =
      if i < 8 then nn.getLsbD i else if i < 12 then (regBits x).getLsbD (i - 8) else op.getLsbD (i - 12) := by
  show (op ++ regBits x ++ nn).getLsbD i = _
  rw [BitVec.getLsbD_append, BitVec.getLsbD_append]
  split_ifs <;> first | rfl | omega

theorem getLsbD_formatXYN (op : BitVec 4) (x y : Reg) (n : Nibble) (i : Nat) :
    (formatXYN op x y n).getLsbD i =
      if i < 4 then n.getLsbD i else if i < 8 then (regBits y).getLsbD (i - 4)
      else if i < 12 then (regBits x).getLsbD (i - 8) else op.getLsbD (i - 12) := by
  show (op ++ regBits x ++ regBits y ++ n).getLsbD i = _
  rw [BitVec.getLsbD_append, BitVec.getLsbD_append, BitVec.getLsbD_append]
  split_ifs <;> first | rfl | omega

@[simp] theorem fieldOp_formatNNN (op : BitVec 4) (nnn : Addr12) :
    fieldOp (formatNNN op nnn) = op := by
  apply BitVec.eq_of_getLsbD_eq
  intro i hi
  rw [fieldOp, BitVec.getLsbD_extractLsb', getLsbD_formatNNN]
  interval_cases i <;> rfl

@[simp] theorem fieldNNN_formatNNN (op : BitVec 4) (nnn : Addr12) :
    fieldNNN (formatNNN op nnn) = nnn := by
  apply BitVec.eq_of_getLsbD_eq
  intro i hi
  rw [fieldNNN, BitVec.getLsbD_extractLsb', getLsbD_formatNNN]
  interval_cases i <;> rfl

@[simp] theorem fieldOp_formatXNN (op : BitVec 4) (x : Reg) (nn : Byte) :
    fieldOp (formatXNN op x nn) = op := by
  apply BitVec.eq_of_getLsbD_eq
  intro i hi
  rw [fieldOp, BitVec.getLsbD_extractLsb', getLsbD_formatXNN]
  interval_cases i <;> rfl

@[simp] theorem fieldX_formatXNN (op : BitVec 4) (x : Reg) (nn : Byte) :
    fieldX (formatXNN op x nn) = x := by
  refine Eq.trans (congrArg regOf ?_) (regOf_regBits x)
  apply BitVec.eq_of_getLsbD_eq
  intro i hi
  rw [BitVec.getLsbD_extractLsb', getLsbD_formatXNN]
  interval_cases i <;> rfl

@[simp] theorem fieldNN_formatXNN (op : BitVec 4) (x : Reg) (nn : Byte) :
    fieldNN (formatXNN op x nn) = nn := by
  apply BitVec.eq_of_getLsbD_eq
  intro i hi
  rw [fieldNN, BitVec.getLsbD_extractLsb', getLsbD_formatXNN]
  interval_cases i <;> rfl

@[simp] theorem fieldOp_formatXYN (op : BitVec 4) (x y : Reg) (n : Nibble) :
    fieldOp (formatXYN op x y n) = op := by
  apply BitVec.eq_of_getLsbD_eq
  intro i hi
  rw [fieldOp, BitVec.getLsbD_extractLsb', getLsbD_formatXYN]
  interval_cases i <;> rfl

@[simp] theorem fieldX_formatXYN (op : BitVec 4) (x y : Reg) (n : Nibble) :
    fieldX (formatXYN op x y n) = x := by
  refine Eq.trans (congrArg regOf ?_) (regOf_regBits x)
  apply BitVec.eq_of_getLsbD_eq
  intro i hi
  rw [BitVec.getLsbD_extractLsb', getLsbD_formatXYN]
  interval_cases i <;> rfl

@[simp] theorem fieldY_formatXYN (op : BitVec 4) (x y : Reg) (n : Nibble) :
    fieldY (formatXYN op x y n) = y := by
  refine Eq.trans (congrArg regOf ?_) (regOf_regBits y)
  apply BitVec.eq_of_getLsbD_eq
  intro i hi
  rw [BitVec.getLsbD_extractLsb', getLsbD_formatXYN]
  interval_cases i <;> rfl

@[simp] theorem fieldN_formatXYN (op : BitVec 4) (x y : Reg) (n : Nibble) :
    fieldN (formatXYN op x y n) = n := by
  apply BitVec.eq_of_getLsbD_eq
  intro i hi
  rw [fieldN, BitVec.getLsbD_extractLsb', getLsbD_formatXYN]
  interval_cases i <;> rfl

/-- Big-endian storage and fetch agree (20_memory R52). -/
@[simp] theorem wordOfBytes_hiByte_loByte (w : Word) : wordOfBytes (hiByte w) (loByte w) = w := by
  apply BitVec.eq_of_getLsbD_eq
  intro i hi
  show (hiByte w ++ loByte w).getLsbD i = _
  rw [BitVec.getLsbD_append]
  interval_cases i <;> simp [hiByte, loByte]

@[simp] theorem hiByte_wordOfBytes (hi lo : Byte) : hiByte (wordOfBytes hi lo) = hi := by
  apply BitVec.eq_of_getLsbD_eq
  intro i h
  rw [hiByte, BitVec.getLsbD_extractLsb']
  show (decide (i < 8) && (hi ++ lo).getLsbD (8 + i)) = _
  rw [BitVec.getLsbD_append]
  interval_cases i <;> rfl

@[simp] theorem loByte_wordOfBytes (hi lo : Byte) : loByte (wordOfBytes hi lo) = lo := by
  apply BitVec.eq_of_getLsbD_eq
  intro i h
  rw [loByte, BitVec.getLsbD_extractLsb']
  show (decide (i < 8) && (hi ++ lo).getLsbD (0 + i)) = _
  rw [BitVec.getLsbD_append]
  interval_cases i <;> rfl

end Sys2Proof
end

