-- ==== Sys2Proof/Laws/Memory.lean ====
section
/-! SUPPORT. The laws of memory as data: reads after writes, the canonical form kept, equal memories equal lists. -/

namespace Sys2Proof.Machine

@[simp] theorem Memory.read_nil (a : Nat) : Memory.read [] a = Memory.unlisted a := rfl

theorem Memory.read_cons (c : Host.Cell) (m : Memory) (a : Nat) :
    Memory.read (c :: m) a = if c.1 = a then c.2 else Memory.read m a := rfl

theorem Memory.read_insert (m : Memory) (a : Nat) (b : Byte) (a' : Nat) :
    Memory.read (Memory.insert a b m) a' = if a' = a then b else Memory.read m a' := by
  induction m with
  | nil => simp only [Memory.insert, Memory.read_cons, Memory.read_nil, eq_comm]
  | cons c m ih =>
    simp only [Memory.insert]
    split_ifs with h1 h2 <;> simp only [Memory.read_cons, ih] <;> split_ifs <;> first | rfl | omega

theorem Memory.read_erase (m : Memory) (a a' : Nat) :
    Memory.read (m.erase a) a' = if a' = a then Memory.unlisted a else Memory.read m a' := by
  induction m with
  | nil => simp only [Memory.erase, List.filter_nil, Memory.read_nil]; split_ifs with h <;> simp [*]
  | cons c m ih =>
    simp only [Memory.erase] at ih
    by_cases hc : c.1 = a
    · simp only [Memory.erase, List.filter_cons, hc, bne_self_eq_false, Bool.false_eq_true, if_false, ih,
        Memory.read_cons]
      split_ifs <;> first | rfl | omega
    · simp only [Memory.erase, List.filter_cons, bne_iff_ne, ne_eq, hc, not_false_eq_true, if_true, ih,
        Memory.read_cons]
      split_ifs <;> first | rfl | omega

theorem Memory.write_wf_insert {m : Memory} {a : Nat} {b : Byte} {lo : Nat}
    (hlo : lo < a) (hm : ∀ c ∈ m, lo < c.1) : ∀ c ∈ Memory.insert a b m, lo < c.1 := by
  induction m with
  | nil => simp [Memory.insert, hlo]
  | cons c m ih =>
    simp only [Memory.insert]
    have hc := hm c (by simp)
    have hm' : ∀ d ∈ m, lo < d.1 := fun d hd => hm d (List.mem_cons_of_mem _ hd)
    split_ifs <;> intro d hd <;> simp only [List.mem_cons] at hd
    · rcases hd with rfl | rfl | hd <;> [exact hlo; exact hc; exact hm' d hd]
    · rcases hd with rfl | hd <;> [exact hlo; exact hm' d hd]
    · rcases hd with rfl | hd <;> [exact hc; exact ih hm' d hd]

theorem Memory.wf_iff (m : Memory) :
    m.wf = true ↔ m.Pairwise (fun c d => c.1 < d.1) ∧ ∀ c ∈ m, c.2 ≠ Memory.unlisted c.1 := by
  simp [Memory.wf]

theorem Memory.mem_insert {m : Memory} {a : Nat} {b : Byte} {c : Host.Cell} (h : c ∈ Memory.insert a b m) :
    c = (a, b) ∨ c ∈ m := by
  induction m with
  | nil => simpa [Memory.insert] using h
  | cons d m ih =>
    simp only [Memory.insert] at h
    split_ifs at h <;> simp only [List.mem_cons] at h ⊢
    · tauto
    · tauto
    · rcases h with h | h
      · tauto
      · rcases ih h with h | h <;> tauto

theorem Memory.pairwise_insert {m : Memory} (a : Nat) (b : Byte) (h : m.Pairwise (fun c d => c.1 < d.1)) :
    (Memory.insert a b m).Pairwise (fun c d => c.1 < d.1) := by
  induction m with
  | nil => simp [Memory.insert]
  | cons c m ih =>
    obtain ⟨hc, hm⟩ := List.pairwise_cons.mp h
    simp only [Memory.insert]
    split_ifs with h1 h2
    · refine List.pairwise_cons.mpr ⟨fun d hd => ?_, h⟩
      rcases List.mem_cons.mp hd with rfl | hd
      · exact h1
      · exact Nat.lt_trans h1 (hc d hd)
    · exact List.pairwise_cons.mpr ⟨fun d hd => h2 ▸ hc d hd, hm⟩
    · exact List.pairwise_cons.mpr ⟨Memory.write_wf_insert (by omega) hc, ih hm⟩

/-- Read after write: the written byte at its address, every other address alone. Holds of any list. -/
theorem Memory.read_write_eq (m : Memory) (a : Nat) (b : Byte) (a' : Nat) :
    (m.write a b).read a' = if a' = a then b else m.read a' := by
  unfold Memory.write
  by_cases h : b = Memory.unlisted a
  · rw [if_pos h, Memory.read_erase, h]
  · rw [if_neg h, Memory.read_insert]

/-- A cell of a written memory is the written one or an old one. -/
theorem Memory.mem_write {m : Memory} {a : Nat} {b : Byte} {c : Host.Cell} (h : c ∈ m.write a b) :
    c = (a, b) ∨ c ∈ m := by
  unfold Memory.write at h
  split_ifs at h
  · exact .inr (List.mem_of_mem_filter h)
  · exact Memory.mem_insert h

/-- A write keeps the canonical form. -/
theorem Memory.write_wf {m : Memory} (a : Nat) (b : Byte) (h : m.wf = true) : (m.write a b).wf = true := by
  rw [Memory.wf_iff] at h ⊢
  unfold Memory.write
  split_ifs with hb
  · exact ⟨h.1.filter _, fun c hc => h.2 c (List.mem_of_mem_filter hc)⟩
  · refine ⟨Memory.pairwise_insert a b h.1, fun c hc => ?_⟩
    rcases Memory.mem_insert hc with rfl | hc
    · exact hb
    · exact h.2 c hc

/-- The empty memory, the one of `State.reset`, is in canonical form. -/
theorem Memory.nil_wf : Memory.wf [] = true := rfl

theorem Memory.mem_ofBytes {c : Host.Cell} :
    ∀ {bs : List Byte} {a : Nat}, c ∈ Memory.ofBytes a bs → a ≤ c.1 ∧ c.1 < a + bs.length ∧ c.2 ≠ Memory.unlisted c.1
  | [], _, h => by simp [Memory.ofBytes] at h
  | b :: bs, a, h => by
    simp only [Memory.ofBytes] at h
    simp only [List.length_cons]
    split_ifs at h with hb
    · have := Memory.mem_ofBytes h
      exact ⟨by omega, by omega, this.2.2⟩
    · rcases List.mem_cons.mp h with rfl | h
      · exact ⟨Nat.le_refl _, by simp, hb⟩
      · have := Memory.mem_ofBytes h
        exact ⟨by omega, by omega, this.2.2⟩

/-- A loaded memory is in canonical form. -/
theorem Memory.ofBytes_wf (a : Nat) (bs : List Byte) : (Memory.ofBytes a bs).wf = true := by
  rw [Memory.wf_iff]
  refine ⟨?_, fun c hc => (Memory.mem_ofBytes hc).2.2⟩
  induction bs generalizing a with
  | nil => simp [Memory.ofBytes]
  | cons b bs ih =>
    simp only [Memory.ofBytes]
    split_ifs
    · exact ih _
    · exact List.pairwise_cons.mpr ⟨fun c hc => (Memory.mem_ofBytes hc).1, ih _⟩

/-- What a loaded memory holds. -/
theorem Memory.read_ofBytes (bs : List Byte) (a k : Nat) :
    (Memory.ofBytes a bs).read k = if h : a ≤ k ∧ k < a + bs.length then bs[k - a]'(by omega) else Memory.unlisted k := by
  induction bs generalizing a with
  | nil => simp [Memory.ofBytes]
  | cons b bs ih =>
    have hread : (Memory.ofBytes a (b :: bs)).read k = if a = k then b else (Memory.ofBytes (a + 1) bs).read k := by
      simp only [Memory.ofBytes]
      by_cases hb : b = Memory.unlisted a
      · rw [if_pos hb]
        split_ifs with hk
        · subst hk
          rw [ih, dif_neg (by omega), hb]
        · rfl
      · rw [if_neg hb, Memory.read_cons]
    rw [hread, ih]
    by_cases hk : a = k
    · subst hk; simp
    · rw [if_neg hk]
      by_cases h : a + 1 ≤ k ∧ k < a + 1 + bs.length
      · rw [dif_pos h, dif_pos ⟨by omega, by simp only [List.length_cons]; omega⟩]
        obtain ⟨j, rfl⟩ : ∃ j, k = a + 1 + j := ⟨k - (a + 1), by omega⟩
        simp [show a + 1 + j - a = j + 1 by omega]
      · rw [dif_neg h, dif_neg (by simp only [List.length_cons]; omega)]

end Sys2Proof.Machine
end

