-- ==== Sys2Proof/Laws/Ops.lean ====
section
/-! SUPPORT. What each shared operation can do, said once: registers, checked memory accesses, keys, pixels, timers. -/

namespace Sys2Proof.Machine

/-! ### Registers -/

@[simp] theorem State.reg_setReg (s : State) (x : Reg) (b : Byte) (k : Reg) :
    (s.setReg x b).reg k = if k = x then b else s.reg k := by
  simp only [State.reg, State.setReg, Fin.getElem_fin, Vector.getElem_set, Fin.ext_iff, eq_comm]

@[simp] theorem State.reg_setFlag (s : State) (b : Byte) (k : Reg) :
    (s.setFlag b).reg k = if k = regF then b else s.reg k := State.reg_setReg s regF b k

@[simp] theorem State.reg_setRegs (s : State) (bs : List Byte) (k : Reg) :
    (s.setRegs bs).reg k = bs.getD k.val (s.reg k) := by
  simp [State.reg, State.setRegs]

@[simp] theorem State.reg_reset (k : Reg) : State.reset.reg k = 0 := by
  simp [State.reg]

@[simp] theorem State.reg_setI (s : State) (w : Word) (k : Reg) : (s.setI w).reg k = s.reg k := rfl

@[simp] theorem State.reg_setPc (s : State) (w : Word) (k : Reg) : (s.setPc w).reg k = s.reg k := rfl

@[simp] theorem State.reg_advance (s : State) (k : Reg) : (s.advance).reg k = s.reg k := rfl

@[simp] theorem State.reg_skipIf (s : State) (c : Bool) (k : Reg) : (s.skipIf c).reg k = s.reg k := rfl

@[simp] theorem State.reg_setDT (s : State) (b : Byte) (k : Reg) : (s.setDT b).reg k = s.reg k := rfl

@[simp] theorem State.reg_setST (s : State) (b : Byte) (k : Reg) : (s.setST b).reg k = s.reg k := rfl

@[simp] theorem State.reg_setMem (s : State) (m : Memory) (k : Reg) : (s.setMem m).reg k = s.reg k := rfl

@[simp] theorem State.reg_setFb (s : State) (f : Framebuffer) (k : Reg) : (s.setFb f).reg k = s.reg k := rfl

@[simp] theorem State.reg_push (s : State) (w : Word) (h : s.sp.val < 16) (k : Reg) : (s.push w h).reg k = s.reg k := rfl

@[simp] theorem State.reg_pop (s : State) (k : Reg) : (s.pop).reg k = s.reg k := rfl

@[simp] theorem State.reg_countDraw (s : State) (k : Reg) : (s.countDraw).reg k = s.reg k := rfl

@[simp] theorem State.reg_raise (s : State) (r : Raised) (k : Reg) : (s.raise r).reg k = s.reg k := rfl

@[simp] theorem State.reg_reportDecodeError (s : State) (w : Word) (k : Reg) : (s.reportDecodeError w).reg k = s.reg k := rfl

@[simp] theorem State.reg_clearOutputs (s : State) (k : Reg) : (s.clearOutputs).reg k = s.reg k := rfl

@[simp] theorem State.reg_timerStep (s : State) (k : Reg) : (s.timerStep).reg k = s.reg k := rfl

@[simp] theorem State.reg_setKeys (s : State) (ks : BitVec 16) (k : Reg) : (s.setKeys ks).reg k = s.reg k := rfl

@[simp] theorem State.reg_drawAck (s : State) (k : Reg) : (s.drawAck).reg k = s.reg k := rfl

theorem State.length_regsUpTo (s : State) (x : Reg) : (s.regsUpTo x).length = x.val + 1 := by
  simp only [State.regsUpTo, List.length_take, Vector.length_toList]
  omega

theorem State.getElem?_regsUpTo (s : State) (x k : Reg) (h : k ≤ x) : (s.regsUpTo x)[k.val]? = some (s.reg k) := by
  rw [State.regsUpTo, List.getElem?_take_of_lt (Nat.lt_succ_of_le (Fin.le_def.mp h))]
  simp [State.reg]

/-! ### Checked memory accesses (20_memory R55, R56) -/

/-- Reading `n` rising bytes: all of them, where they lie in memory. -/
theorem memReadBytes_ok (m : Memory) (a n : Nat) (h : n = 0 ∨ a + n ≤ 0x1000) :
    memReadBytes m a n = .ok ((List.range n).map (fun k => m.read (a + k))) := by
  induction n generalizing a with
  | zero => rfl
  | succ n ih =>
    rw [memReadBytes, memRead, if_neg (by omega), ih (a + 1) (by omega)]
    simp [List.range_succ_eq_map, Function.comp_def, Nat.add_assoc, Nat.add_comm 1]

/-- Reading past the end raises at the first address above 0xFFF (60_exceptions R207). -/
theorem memReadBytes_error (m : Memory) (a n : Nat) (h : ¬ (n = 0 ∨ a + n ≤ 0x1000)) :
    memReadBytes m a n = .error (.memReadOutOfRange (max a 0x1000)) := by
  induction n generalizing a with
  | zero => simp at h
  | succ n ih =>
    rw [memReadBytes, memRead]
    by_cases ha : a > 0xFFF
    · rw [if_pos ha, Nat.max_eq_left (by omega)]
    · rw [if_neg ha, ih (a + 1) (by omega), Nat.max_eq_right (by omega), Nat.max_eq_right (by omega)]

/-- Writing rising bytes that all lie in writable memory: what the memory then reads. -/
theorem memWriteBytes_ok (m : Memory) (a : Nat) (bs : List Byte) (h : bs = [] ∨ 0x200 ≤ a ∧ a + bs.length ≤ 0x1000) :
    ∃ m', memWriteBytes m a bs = .ok m' ∧
      (∀ k, m'.read k = if h : a ≤ k ∧ k < a + bs.length then bs[k - a]'(by omega) else m.read k) ∧
      (m.wf = true → m'.wf = true) ∧ (∀ c ∈ m', c ∈ m ∨ a ≤ c.1 ∧ c.1 < a + bs.length) := by
  induction bs generalizing m a with
  | nil => exact ⟨m, rfl, fun _ => by simp, id, fun c hc => .inl hc⟩
  | cons b bs ih =>
    have ha : 0x200 ≤ a ∧ a + (bs.length + 1) ≤ 0x1000 := by
      rcases h with h | h
      · cases h
      · simpa using h
    rw [memWriteBytes, memWrite, if_neg (by omega), if_neg (by omega)]
    obtain ⟨m', h1, h2, h3, h4⟩ := ih (m.write a b) (a + 1) (.inr (by omega))
    refine ⟨m', h1, fun k => ?_, fun hw => h3 (Memory.write_wf a b hw), fun c hc => ?_⟩
    · rw [h2]
      by_cases hk : a + 1 ≤ k ∧ k < a + 1 + bs.length
      · rw [dif_pos hk, dif_pos (by simp only [List.length_cons]; omega)]
        obtain ⟨j, rfl⟩ : ∃ j, k = a + 1 + j := ⟨k - (a + 1), by omega⟩
        simp [show a + 1 + j - a = j + 1 by omega]
      · rw [dif_neg hk, Memory.read_write_eq]
        by_cases hka : k = a
        · subst hka; simp
        · rw [if_neg hka, dif_neg (by simp only [List.length_cons]; omega)]
    · simp only [List.length_cons]
      rcases h4 c hc with hc | hc
      · rcases Memory.mem_write hc with rfl | hc
        · exact .inr ⟨Nat.le_refl _, by simp⟩
        · exact .inl hc
      · exact .inr (by omega)

/-- Writing with the first address below 0x200 raises ProtectedWrite (60_exceptions R209). -/
theorem memWriteBytes_protected (m : Memory) (a : Nat) (bs : List Byte) (hb : bs ≠ []) (ha : a < 0x200) :
    memWriteBytes m a bs = .error (.protectedWrite a) := by
  cases bs with
  | nil => exact absurd rfl hb
  | cons b bs => rw [memWriteBytes, memWrite, if_neg (by omega), if_pos ha]

/-- Writing past the end, from 0x200 or above, raises at the first address above 0xFFF (60_exceptions R208). -/
theorem memWriteBytes_range (m : Memory) (a : Nat) (bs : List Byte) (hb : bs ≠ []) (ha : 0x200 ≤ a)
    (he : 0x1000 < a + bs.length) : memWriteBytes m a bs = .error (.memWriteOutOfRange (max a 0x1000)) := by
  induction bs generalizing m a with
  | nil => exact absurd rfl hb
  | cons b bs ih =>
    rw [memWriteBytes, memWrite]
    by_cases h : a > 0xFFF
    · rw [if_pos h, Nat.max_eq_left (by omega)]
    · simp only [List.length_cons] at he
      rw [if_neg h, if_neg (by omega)]
      have hne : bs ≠ [] := by rintro rfl; simp at he; omega
      show memWriteBytes (m.write a b) (a + 1) bs = _
      rw [ih _ _ hne (by omega) (by omega), Nat.max_eq_right (by omega), Nat.max_eq_right (by omega)]

/-- What a completed write of rising bytes can do to memory, whatever the bytes: nothing outside 0x200 to 0xFFF changes,
and the canonical form and that range of listed addresses are kept (20_memory R56). -/
theorem memWriteBytes_inv {m m' : Memory} {a : Nat} {bs : List Byte} (h : memWriteBytes m a bs = .ok m') :
    (∀ k, k < 0x200 ∨ 0xFFF < k → m'.read k = m.read k) ∧ (m.wf = true → m'.wf = true) ∧
      ((∀ c ∈ m, 0x200 ≤ c.1 ∧ c.1 ≤ 0xFFF) → ∀ c ∈ m', 0x200 ≤ c.1 ∧ c.1 ≤ 0xFFF) := by
  induction bs generalizing m a with
  | nil => cases h; exact ⟨fun _ _ => rfl, id, id⟩
  | cons b bs ih =>
    simp only [memWriteBytes, memWrite] at h
    split_ifs at h with h1 h2
    · obtain ⟨i1, i2, i3⟩ := ih h
      refine ⟨fun k hk => ?_, fun hw => i2 (Memory.write_wf _ _ hw), fun hc => i3 fun c hc' => ?_⟩
      · rw [i1 k hk, Memory.read_write_eq, if_neg (by omega)]
      · rcases Memory.mem_write hc' with rfl | hm
        · exact ⟨by simp only; omega, by simp only; omega⟩
        · exact hc c hm

/-! ### Keys -/

theorem mem_downKeys (keys : BitVec 16) (k : Reg) : k ∈ downKeys keys ↔ keyDown keys k.val = true := by
  simp [downKeys]

/-- With no key down there is no choice. -/
theorem chooseKey_zero (pick : Nat) : chooseKey pick 0#16 = none := by
  simp [chooseKey, downKeys, keyDown]

/-- A chosen key is down. -/
theorem keyDown_of_chooseKey {pick : Nat} {keys : BitVec 16} {k : Reg} (h : chooseKey pick keys = some k) :
    keyDown keys k.val = true :=
  (mem_downKeys keys k).mp (List.mem_of_getElem? h)

/-- With a key down, some key is chosen. -/
theorem chooseKey_of_keyDown (pick : Nat) {keys : BitVec 16} {k : Reg} (h : keyDown keys k.val = true) :
    ∃ j, chooseKey pick keys = some j := by
  have hpos : 0 < (downKeys keys).length := List.length_pos_of_mem ((mem_downKeys keys k).mpr h)
  exact ⟨_, List.getElem?_eq_getElem (Nat.mod_lt pick hpos)⟩

/-- No choice means that no key is down. -/
theorem keys_eq_zero_of_chooseKey_none {pick : Nat} {keys : BitVec 16} (h : chooseKey pick keys = none) : keys = 0 := by
  apply BitVec.eq_of_getLsbD_eq
  intro i hi
  by_contra hk
  obtain ⟨j, hj⟩ := chooseKey_of_keyDown (k := ⟨i, hi⟩) (keys := keys) pick (by simpa [keyDown] using hk)
  rw [h] at hj
  cases hj

/-! ### Pixels -/

theorem pixel_togglePixel (fb : Framebuffer) (p q : Pixel) :
    pixel (togglePixel fb p) q = (pixel fb q ^^ decide (q = p)) := by
  obtain ⟨px, py⟩ := p
  obtain ⟨qx, qy⟩ := q
  simp only [pixel, togglePixel, Fin.getElem_fin, Vector.getElem_set, Prod.mk.injEq]
  by_cases hy : py = qy
  · subst hy
    simp only [if_true, BitVec.getLsbD_xor, and_true]
    congr 1
    rw [BitVec.getLsbD_shiftLeft, BitVec.getLsbD_one]
    by_cases hx : qx = px
    · subst hx; simp [qx.isLt]
    · have : qx.val ≠ px.val := fun h => hx (Fin.ext h)
      simp only [hx, decide_false, qx.isLt, decide_true, Bool.true_and]
      by_cases hlt : qx.val < px.val
      · simp [hlt]
      · simp [hlt]; omega
  · have h1 : py.val ≠ qy.val := fun h => hy (Fin.ext h)
    simp [h1, Ne.symm hy]

/-- Two framebuffers with the same pixels are equal. -/
theorem framebuffer_ext {f g : Framebuffer} (h : ∀ p, pixel f p = pixel g p) : f = g := by
  apply Vector.ext
  intro y hy
  apply BitVec.eq_of_getLsbD_eq
  intro x hx
  exact h (⟨x, hx⟩, ⟨y, hy⟩)

/-- Drawing distinct pixels toggles exactly those. -/
theorem pixel_drawPixels (fb : Framebuffer) (ps : List Pixel) (h : ps.Nodup) (q : Pixel) :
    pixel (drawPixels fb ps).1 q = (pixel fb q ^^ decide (q ∈ ps)) := by
  induction ps generalizing fb with
  | nil => simp [drawPixels]
  | cons p ps ih =>
    obtain ⟨hp, hps⟩ := List.nodup_cons.mp h
    simp only [drawPixels]
    rw [ih _ hps, pixel_togglePixel]
    by_cases hq : q = p
    · subst hq; simp [hp]
    · simp [hq]

/-- Drawing distinct pixels collides exactly when one of them was set. -/
theorem drawPixels_hit (fb : Framebuffer) (ps : List Pixel) (h : ps.Nodup) :
    (drawPixels fb ps).2 = true ↔ ∃ p ∈ ps, pixel fb p = true := by
  induction ps generalizing fb with
  | nil => simp [drawPixels]
  | cons p ps ih =>
    obtain ⟨hp, hps⟩ := List.nodup_cons.mp h
    simp only [drawPixels, Bool.or_eq_true, ih _ hps, List.mem_cons, exists_eq_or_imp]
    refine or_congr_right (exists_congr fun q => and_congr_right fun hq => ?_)
    rw [pixel_togglePixel]
    have : q ≠ p := by rintro rfl; exact hp hq
    simp [this]

/-- Which positions a sprite row has. -/
theorem mem_rowPixels (x y : Nat) (b : Byte) (p : Pixel) :
    p ∈ rowPixels x y b ↔ ∃ c < 8, b.getLsbD (7 - c) = true ∧ p = screenPos (x + c) y := by
  simp only [rowPixels, List.mem_map, List.mem_filter, List.mem_range]
  constructor
  · rintro ⟨c, ⟨h1, h2⟩, rfl⟩; exact ⟨c, h1, h2, rfl⟩
  · rintro ⟨c, h1, h2, rfl⟩; exact ⟨c, ⟨h1, h2⟩, rfl⟩

/-- Which positions a sprite has. -/
theorem mem_spritePixels (x y : Nat) (rows : List Byte) (p : Pixel) :
    p ∈ spritePixels x y rows ↔
      ∃ r, ∃ h : r < rows.length, ∃ c < 8, rows[r].getLsbD (7 - c) = true ∧ p = screenPos (x + c) (y + r) := by
  induction rows generalizing y with
  | nil => simp [spritePixels]
  | cons b bs ih =>
    simp only [spritePixels, List.mem_append, ih, mem_rowPixels]
    constructor
    · rintro (⟨c, hc, hb, rfl⟩ | ⟨r, hr, c, hc, hb, rfl⟩)
      · exact ⟨0, by simp, c, hc, hb, rfl⟩
      · exact ⟨r + 1, by simpa using hr, c, hc, by simpa using hb, by rw [show y + 1 + r = y + (r + 1) by omega]⟩
    · rintro ⟨r, hr, c, hc, hb, rfl⟩
      cases r with
      | zero => exact .inl ⟨c, hc, by simpa using hb, rfl⟩
      | succ r =>
        exact .inr ⟨r, by simpa using hr, c, hc, by simpa using hb, by rw [show y + 1 + r = y + (r + 1) by omega]⟩

/-- The pixels of one sprite of at most 32 rows are distinct (44_display R173). -/
theorem nodup_spritePixels (x y : Nat) (rows : List Byte) (h : rows.length ≤ 32) : (spritePixels x y rows).Nodup := by
  induction rows generalizing y with
  | nil => simp [spritePixels]
  | cons b bs ih =>
    simp only [List.length_cons] at h
    rw [spritePixels, List.nodup_append]
    refine ⟨?_, ih (y + 1) (by omega), ?_⟩
    · refine List.Nodup.map_on ?_ (List.Nodup.filter _ List.nodup_range)
      intro c hc d hd hcd
      simp only [List.mem_filter, List.mem_range] at hc hd
      simp only [screenPos, Prod.mk.injEq, Fin.mk.injEq] at hcd
      omega
    · intro p hp q hq hpq
      obtain ⟨c, hc, -, rfl⟩ := (mem_rowPixels ..).mp hp
      obtain ⟨r, hr, d, hd, -, hq⟩ := (mem_spritePixels ..).mp hq
      rw [hq] at hpq
      simp only [screenPos, Prod.mk.injEq, Fin.mk.injEq] at hpq
      omega

/-! ### Timers -/

theorem toNat_timerTick (b : Byte) : (timerTick b).toNat = b.toNat - 1 := by
  revert b; decide

/-! ### Waiting -/

theorem waitsForKey_iff (i : Instr) (s : State) : waitsForKey i s = true ↔ (∃ x, i = .waitKey x) ∧ s.keys = 0 := by
  cases i <;> simp [waitsForKey]

end Sys2Proof.Machine
end

