-- ==== Sys2Proof/Laws/Step.lean ====
section
/-! SUPPORT. What raising a fault, the timer step and a whole cycle can do, said once in the terms claims use. -/

namespace Sys2Proof.Machine

/-- Raising a fault latches its cause and changes nothing else but the outputs (60_exceptions R203). -/
theorem faultsFrom_raise (s : State) (r : Raised) : FaultsFrom r.cause s (s.raise r) := by
  refine ⟨rfl, rfl, rfl, fun p hp => ?_⟩
  cases p <;> simp_all [Part.same, faultParts]

/-- The timer step in numbers (40_cycle R96, R97). -/
theorem timersStepped_timerStep (s : State) : TimersStepped s s.timerStep := by
  refine ⟨toNat_timerTick _, toNat_timerTick _, ?_, fun p hp => ?_⟩
  · simp [← BitVec.toNat_inj]
  · cases p <;> simp_all [Part.same]

/-- The two bytes of a fetch, where both are in memory. -/
theorem fetchWord_ok {s : State} (h : s.pc.toNat ≤ 0xFFE) : fetchWord s = .ok s.wordAtPc :=
  if_neg (by omega)

/-- A latched fault makes the cycle empty (40_cycle R99). -/
theorem step_of_fault {s : State} (h : s.fault.isSome = true) : step s = .next s.clearOutputs := if_pos h

/-- The fetch of a cycle with no latched fault decides how it goes on (40_cycle R102). -/
theorem step_of_no_fault {s : State} (h : s.fault = none) :
    step s =
      match fetchWord s with
      | .error r => .next (s.clearOutputs.raise r)
      | .ok w =>
        match decodeWord w with
        | .error _ => .next (s.clearOutputs.reportDecodeError w).timerStep
        | .ok i =>
          match exec i s.clearOutputs with
          | .next s1 => .next (finishCycle i s.clearOutputs s1)
          | .fault f => .fault f
          | .refused r => .refused r :=
  if_neg (by simp [h])

/-- Every way a cycle can end in a next state: a latched fault makes it empty; the fetch faults; the word has no
instruction and is reported; or the decoded instruction runs and the cycle is finished. -/
theorem step_cases {s t : State} (h : step s = .next t) :
    (s.fault.isSome = true ∧ t = s.clearOutputs) ∨
    (s.fault = none ∧ s.pc.toNat > 0xFFE ∧ t = s.clearOutputs.raise (.fetchOutOfRange s.pc)) ∨
    (s.fetches ∧ (∃ e, decodeWord s.wordAtPc = .error e) ∧
      t = (s.clearOutputs.reportDecodeError s.wordAtPc).timerStep) ∨
    (s.fetches ∧ ∃ i s1, decodeWord s.wordAtPc = .ok i ∧ exec i s.clearOutputs = .next s1 ∧
      t = finishCycle i s.clearOutputs s1) := by
  by_cases hf : s.fault.isSome = true
  · rw [step_of_fault hf] at h
    exact .inl ⟨hf, (Host.Outcome.next.inj h).symm⟩
  · have hn : s.fault = none := by simpa using hf
    rw [step_of_no_fault hn] at h
    by_cases hpc : s.pc.toNat > 0xFFE
    · rw [fetchWord, if_pos hpc] at h
      exact .inr (.inl ⟨hn, hpc, (Host.Outcome.next.inj h).symm⟩)
    · rw [fetchWord_ok (by omega)] at h
      have hs : s.fetches := ⟨hn, by omega⟩
      cases hd : decodeWord s.wordAtPc with
      | error e =>
        simp only [hd] at h
        exact .inr (.inr (.inl ⟨hs, ⟨e, rfl⟩, (Host.Outcome.next.inj h).symm⟩))
      | ok i =>
        simp only [hd] at h
        cases he : exec i s.clearOutputs with
        | next s1 =>
          simp only [he] at h
          exact .inr (.inr (.inr ⟨hs, i, s1, rfl, he, (Host.Outcome.next.inj h).symm⟩))
        | fault f => cases f
        | refused r => simp [he] at h

/-! ### The end of a run (00_scope R17) -/

/-- A run is over where a word can be fetched and decodes to a jump to pc. -/
theorem runEnded_iff (s : State) :
    s.runEnded = true ↔ s.fetches ∧ decodeWord s.wordAtPc = .ok (.jp (s.pc.setWidth 12)) := by
  unfold State.runEnded
  by_cases h : s.pc.toNat ≤ 0xFFE
  · simp [fetchWord_ok h, State.fetches, h]
  · simp [fetchWord, show s.pc.toNat > 0xFFE by omega, State.fetches, h]

/-- The cycle at the end of a run is the timer step alone. -/
theorem step_of_runEnded {s : State} (h : s.runEnded = true) : step s = .next s.clearOutputs.timerStep := by
  obtain ⟨hs, hd⟩ := (runEnded_iff s).mp h
  have hpc : zextAddr (s.pc.setWidth 12) = s.pc := by
    have := hs.2
    rw [← BitVec.toNat_inj]
    simp only [zextAddr, BitVec.toNat_setWidth]
    omega
  rw [step_of_no_fault hs.1, fetchWord_ok hs.2]
  simp only [hd, exec, execJp, hpc]
  simp [finishCycle, waitsForKey, hs.1]
  rfl

end Sys2Proof.Machine
end

