-- ==== Sys2Proof/Laws/Exec.lean ====
section
/-! SUPPORT. What every instruction has in common: it always answers a next state, and that state is either a raised fault or
one with the same latch, sound signal and keys. -/

namespace Sys2Proof.Machine

/-- An instruction's next state: a fault raised on the state it began with, or a state with the latch, the sound signal
and the keys as they were (60_exceptions R203, R224; 10_state R32). -/
theorem exec_raises_or_keeps (i : Instr) (s : State) :
    ∃ t, exec i s = .next t ∧ ((∃ r, t = s.raise r) ∨ (t.fault = s.fault ∧ t.beep = s.beep ∧ t.keys = s.keys)) := by
  cases i <;>
    simp only [exec, execCls, execRet, execJp, execCall, execSeImm, execSneImm, execSeReg, execSneReg, execJpV0,
      execLdImm, execAddImm, execLdReg, execOrReg, execAndReg, execXorReg, execAddReg, execSubReg, execShr, execSubnReg,
      execShl, writeResult, writeResultAndFlag, execLdI, execAddI, execLdFont, execBcd, execStoreRegs, execLoadRegs,
      execDrw, execRnd, execSkp, execSknp, skipOnKey, execReadDelay, execWaitKey, execWriteDelay, execWriteSound,
      execSys] <;>
    (try split) <;>
    first
      | exact ⟨_, rfl, .inr ⟨rfl, rfl, rfl⟩⟩
      | exact ⟨_, rfl, .inl ⟨_, rfl⟩⟩

end Sys2Proof.Machine
end

