-- ==== Sys2Proof/Laws/PerInstr.lean ====
section
/-! SUPPORT. Per-instruction families: the word the encoder writes selects, by pattern and mask, the row of the opcode map that
carries the instruction's mnemonic (30_encoding R84). -/

namespace Sys2Proof

theorem and_F000_formatNNN (op : BitVec 4) (nnn : Addr12) :
    formatNNN op nnn &&& 0xF000#16 = op.setWidth 16 <<< 12 := by
  apply BitVec.eq_of_getLsbD_eq
  intro i hi
  rw [BitVec.getLsbD_and, getLsbD_formatNNN]
  interval_cases i <;> simp

theorem and_F000_formatXNN (op : BitVec 4) (x : Reg) (nn : Byte) :
    formatXNN op x nn &&& 0xF000#16 = op.setWidth 16 <<< 12 := by
  apply BitVec.eq_of_getLsbD_eq
  intro i hi
  rw [BitVec.getLsbD_and, getLsbD_formatXNN]
  interval_cases i <;> simp

theorem and_F0FF_formatXNN (op : BitVec 4) (x : Reg) (nn : Byte) :
    formatXNN op x nn &&& 0xF0FF#16 = op.setWidth 16 <<< 12 ||| nn.setWidth 16 := by
  apply BitVec.eq_of_getLsbD_eq
  intro i hi
  rw [BitVec.getLsbD_and, getLsbD_formatXNN]
  interval_cases i <;> simp

theorem and_F000_formatXYN (op : BitVec 4) (x y : Reg) (n : Nibble) :
    formatXYN op x y n &&& 0xF000#16 = op.setWidth 16 <<< 12 := by
  apply BitVec.eq_of_getLsbD_eq
  intro i hi
  rw [BitVec.getLsbD_and, getLsbD_formatXYN]
  interval_cases i <;> simp

theorem and_F00F_formatXYN (op : BitVec 4) (x y : Reg) (n : Nibble) :
    formatXYN op x y n &&& 0xF00F#16 = op.setWidth 16 <<< 12 ||| n.setWidth 16 := by
  apply BitVec.eq_of_getLsbD_eq
  intro i hi
  rw [BitVec.getLsbD_and, getLsbD_formatXYN]
  interval_cases i <;> simp

/-- A row at a known place of the opcode map. -/
theorem opcodeRow_at {i : Instr} (k : Nat) (r : OpcodeRow) (hr : opcodeRows[k]? = some r) (hm : r.mnemonic = i.mnemonic)
    (hs : encode i &&& r.mask = r.pattern) :
    ∃ r ∈ opcodeRows, r.mnemonic = i.mnemonic ∧ r.selects (encode i) = true :=
  ⟨r, List.mem_of_getElem? hr, hm, by simp [OpcodeRow.selects, hs]⟩

end Sys2Proof

namespace Sys2Proof.Laws.SelectsItsRow

/-- A well-formed instruction's word selects the row that carries its mnemonic. -/
def Statement (i : Instr) : Prop :=
  i.wellFormed = true → ∃ r ∈ opcodeRows, r.mnemonic = i.mnemonic ∧ r.selects (encode i) = true

theorem cls : Statement (.cls) :=
  fun _ => opcodeRow_at 0 _ rfl rfl rfl

theorem ret : Statement (.ret) :=
  fun _ => opcodeRow_at 1 _ rfl rfl rfl

theorem jp (nnn : Addr12) : Statement (.jp nnn) :=
  fun _ => opcodeRow_at 2 _ rfl rfl (and_F000_formatNNN _ _)

theorem call (nnn : Addr12) : Statement (.call nnn) :=
  fun _ => opcodeRow_at 3 _ rfl rfl (and_F000_formatNNN _ _)

theorem seImm (x : Reg) (nn : Byte) : Statement (.seImm x nn) :=
  fun _ => opcodeRow_at 4 _ rfl rfl (and_F000_formatXNN _ _ _)

theorem sneImm (x : Reg) (nn : Byte) : Statement (.sneImm x nn) :=
  fun _ => opcodeRow_at 5 _ rfl rfl (and_F000_formatXNN _ _ _)

theorem seReg (x : Reg) (y : Reg) (n : Nibble) : Statement (.seReg x y n) :=
  fun _ => opcodeRow_at 6 _ rfl rfl (and_F000_formatXYN _ _ _ _)

theorem ldImm (x : Reg) (nn : Byte) : Statement (.ldImm x nn) :=
  fun _ => opcodeRow_at 7 _ rfl rfl (and_F000_formatXNN _ _ _)

theorem addImm (x : Reg) (nn : Byte) : Statement (.addImm x nn) :=
  fun _ => opcodeRow_at 8 _ rfl rfl (and_F000_formatXNN _ _ _)

theorem ldReg (x : Reg) (y : Reg) : Statement (.ldReg x y) :=
  fun _ => opcodeRow_at 9 _ rfl rfl (and_F00F_formatXYN _ _ _ _)

theorem orReg (x : Reg) (y : Reg) : Statement (.orReg x y) :=
  fun _ => opcodeRow_at 10 _ rfl rfl (and_F00F_formatXYN _ _ _ _)

theorem andReg (x : Reg) (y : Reg) : Statement (.andReg x y) :=
  fun _ => opcodeRow_at 11 _ rfl rfl (and_F00F_formatXYN _ _ _ _)

theorem xorReg (x : Reg) (y : Reg) : Statement (.xorReg x y) :=
  fun _ => opcodeRow_at 12 _ rfl rfl (and_F00F_formatXYN _ _ _ _)

theorem addReg (x : Reg) (y : Reg) : Statement (.addReg x y) :=
  fun _ => opcodeRow_at 13 _ rfl rfl (and_F00F_formatXYN _ _ _ _)

theorem subReg (x : Reg) (y : Reg) : Statement (.subReg x y) :=
  fun _ => opcodeRow_at 14 _ rfl rfl (and_F00F_formatXYN _ _ _ _)

theorem shr (x : Reg) (y : Reg) : Statement (.shr x y) :=
  fun _ => opcodeRow_at 15 _ rfl rfl (and_F00F_formatXYN _ _ _ _)

theorem subnReg (x : Reg) (y : Reg) : Statement (.subnReg x y) :=
  fun _ => opcodeRow_at 16 _ rfl rfl (and_F00F_formatXYN _ _ _ _)

theorem shl (x : Reg) (y : Reg) : Statement (.shl x y) :=
  fun _ => opcodeRow_at 17 _ rfl rfl (and_F00F_formatXYN _ _ _ _)

theorem sneReg (x : Reg) (y : Reg) (n : Nibble) : Statement (.sneReg x y n) :=
  fun _ => opcodeRow_at 18 _ rfl rfl (and_F000_formatXYN _ _ _ _)

theorem ldI (nnn : Addr12) : Statement (.ldI nnn) :=
  fun _ => opcodeRow_at 19 _ rfl rfl (and_F000_formatNNN _ _)

theorem jpV0 (nnn : Addr12) : Statement (.jpV0 nnn) :=
  fun _ => opcodeRow_at 20 _ rfl rfl (and_F000_formatNNN _ _)

theorem rnd (x : Reg) (nn : Byte) : Statement (.rnd x nn) :=
  fun _ => opcodeRow_at 21 _ rfl rfl (and_F000_formatXNN _ _ _)

theorem drw (x : Reg) (y : Reg) (n : Nibble) : Statement (.drw x y n) :=
  fun _ => opcodeRow_at 22 _ rfl rfl (and_F000_formatXYN _ _ _ _)

theorem skp (x : Reg) : Statement (.skp x) :=
  fun _ => opcodeRow_at 23 _ rfl rfl (and_F0FF_formatXNN _ _ _)

theorem sknp (x : Reg) : Statement (.sknp x) :=
  fun _ => opcodeRow_at 24 _ rfl rfl (and_F0FF_formatXNN _ _ _)

theorem readDelay (x : Reg) : Statement (.readDelay x) :=
  fun _ => opcodeRow_at 25 _ rfl rfl (and_F0FF_formatXNN _ _ _)

theorem waitKey (x : Reg) : Statement (.waitKey x) :=
  fun _ => opcodeRow_at 26 _ rfl rfl (and_F0FF_formatXNN _ _ _)

theorem writeDelay (x : Reg) : Statement (.writeDelay x) :=
  fun _ => opcodeRow_at 27 _ rfl rfl (and_F0FF_formatXNN _ _ _)

theorem writeSound (x : Reg) : Statement (.writeSound x) :=
  fun _ => opcodeRow_at 28 _ rfl rfl (and_F0FF_formatXNN _ _ _)

theorem addI (x : Reg) : Statement (.addI x) :=
  fun _ => opcodeRow_at 29 _ rfl rfl (and_F0FF_formatXNN _ _ _)

theorem ldFont (x : Reg) : Statement (.ldFont x) :=
  fun _ => opcodeRow_at 30 _ rfl rfl (and_F0FF_formatXNN _ _ _)

theorem bcd (x : Reg) : Statement (.bcd x) :=
  fun _ => opcodeRow_at 31 _ rfl rfl (and_F0FF_formatXNN _ _ _)

theorem storeRegs (x : Reg) : Statement (.storeRegs x) :=
  fun _ => opcodeRow_at 32 _ rfl rfl (and_F0FF_formatXNN _ _ _)

theorem loadRegs (x : Reg) : Statement (.loadRegs x) :=
  fun _ => opcodeRow_at 33 _ rfl rfl (and_F0FF_formatXNN _ _ _)

theorem sys (nnn : Addr12) : Statement (.sys nnn) :=
  fun _ => opcodeRow_at 34 _ rfl rfl (and_F000_formatNNN _ _)

end Sys2Proof.Laws.SelectsItsRow
end

