-- ==== Sys2Proof/Tests/Slice0.lean ====
section
/-! SUPPORT. The model's own tests. Expected results are those of spec/95_test_vectors.md (the vector is named in each comment)
or of the rule named; none is the model's own answer. The last part has a witness for the hypotheses of every statement of
Obligations. -/

namespace Sys2Proof.Tests

open Sys2Proof Sys2Proof.Machine

/-! ### Helpers -/

/-- The reset state with some V registers set. -/
def withRegs (l : List (Reg × Byte)) : State := l.foldl (fun s p => s.setReg p.1 p.2) State.reset

/-- A state with some bytes stored. -/
def withBytes (s : State) (l : List (Nat × Byte)) : State := l.foldl (fun s p => s.setMem (s.mem.write p.1 p.2)) s

/-- What is seen of a result, where it is a next state. -/
def seen {α : Type} (f : State → α) : Result → Option α
  | .next t => some (f t)
  | .fault _ => none
  | .refused _ => none

/-- What is seen after one cycle that runs the word `w`. -/
def after {α : Type} (w : Nat) (s : State) (f : State → α) : Option α := seen f (step (s.withFetchWord 16 w))

/-- The bytes at `n` rising addresses. -/
def bytesAt (s : State) (a n : Nat) : List Byte := (List.range n).map (fun k => s.mem.read (a + k))

/-! ### Well-formedness: the ill-formed terms are refused (30_encoding R85) -/

theorem test_sys_with_word_of_cls_is_ill_formed : (Instr.sys 0x0E0).wellFormed = false := by decide
theorem test_sys_with_word_of_ret_is_ill_formed : (Instr.sys 0x0EE).wellFormed = false := by decide
theorem test_sys_next_to_them_is_well_formed : (Instr.sys 0x0E1).wellFormed = true ∧ (Instr.sys 0x1E0).wellFormed = true := by
  decide

/-! ### Decoding: a word of every constructor, written out from the patterns of 30_encoding R84 -/

theorem test_decode_family_0 :
    decodeWord 0b0000000011100000 = .ok .cls ∧ decodeWord 0b0000000011101110 = .ok .ret ∧
      decodeWord 0b0000000100100011 = .ok (.sys 0x123) := by decide

theorem test_decode_families_1_to_4 :
    decodeWord 0b0001101010111100 = .ok (.jp 0xABC) ∧ decodeWord 0b0010101010111100 = .ok (.call 0xABC) ∧
      decodeWord 0b0011101001000010 = .ok (.seImm 10 0x42) ∧ decodeWord 0b0100101001000010 = .ok (.sneImm 10 0x42) := by
  decide

theorem test_decode_families_5_6_7_9 :
    decodeWord 0b0101101010110111 = .ok (.seReg 10 11 7) ∧ decodeWord 0b0110111101111011 = .ok (.ldImm 15 0x7B) ∧
      decodeWord 0b0111101000000001 = .ok (.addImm 10 0x01) ∧ decodeWord 0b1001101010111111 = .ok (.sneReg 10 11 15) := by
  decide

theorem test_decode_family_8 :
    decodeWord 0b1000101010110000 = .ok (.ldReg 10 11) ∧ decodeWord 0b1000101010110001 = .ok (.orReg 10 11) ∧
      decodeWord 0b1000101010110010 = .ok (.andReg 10 11) ∧ decodeWord 0b1000101010110011 = .ok (.xorReg 10 11) ∧
      decodeWord 0b1000101010110100 = .ok (.addReg 10 11) ∧ decodeWord 0b1000101010110101 = .ok (.subReg 10 11) ∧
      decodeWord 0b1000101010110110 = .ok (.shr 10 11) ∧ decodeWord 0b1000101010110111 = .ok (.subnReg 10 11) ∧
      decodeWord 0b1000101010111110 = .ok (.shl 10 11) := by decide

theorem test_decode_families_A_to_D :
    decodeWord 0b1010111111111110 = .ok (.ldI 0xFFE) ∧ decodeWord 0b1011001011111110 = .ok (.jpV0 0x2FE) ∧
      decodeWord 0b1100101000001111 = .ok (.rnd 10 0x0F) ∧ decodeWord 0b1101101011110001 = .ok (.drw 10 15 1) := by decide

theorem test_decode_family_E :
    decodeWord 0b1110101010011110 = .ok (.skp 10) ∧ decodeWord 0b1110101010100001 = .ok (.sknp 10) := by decide

theorem test_decode_family_F :
    decodeWord 0b1111101000000111 = .ok (.readDelay 10) ∧ decodeWord 0b1111101000001010 = .ok (.waitKey 10) ∧
      decodeWord 0b1111101000010101 = .ok (.writeDelay 10) ∧ decodeWord 0b1111101000011000 = .ok (.writeSound 10) ∧
      decodeWord 0b1111101000011110 = .ok (.addI 10) ∧ decodeWord 0b1111101000101001 = .ok (.ldFont 10) ∧
      decodeWord 0b1111101000110011 = .ok (.bcd 10) ∧ decodeWord 0b1111101001010101 = .ok (.storeRegs 10) ∧
      decodeWord 0b1111101001100101 = .ok (.loadRegs 10) := by decide

/-- T145 to T155. -/
theorem test_decode_refused :
    decodeWord 0x8008 = .error .noFamily8Operation ∧ decodeWord 0x8ABF = .error .noFamily8Operation ∧
      decodeWord 0xE09F = .error .noFamilyEOperation ∧ decodeWord 0xE000 = .error .noFamilyEOperation ∧
      decodeWord 0xF000 = .error .noFamilyFOperation ∧ decodeWord 0xFA1F = .error .noFamilyFOperation ∧
      decodeWord 0xFFFF = .error .noFamilyFOperation := by decide

/-- T140 to T144: the SYS row takes the rest of family 0x0, compared as a whole word. -/
theorem test_recognised :
    recognised 0x0000 = false ∧ recognised 0x00E1 = false ∧ recognised 0x01E0 = false ∧ recognised 0x00EF = false ∧
      recognised 0x00E0 = true ∧ recognised 0x00EE = true := by decide

/-- The host's table word: big-endian in memory, and the encoder gives the bytes back (R70). -/
theorem test_table_word :
    decodeTableWord 16 0x6A55 = some (.ldImm 10 0x55) ∧ decodeTableWord 16 0x8AB9 = none ∧
      encodeBytes (.ldImm 10 0x55) = [0x6A, 0x55] ∧
      decodeBytes [0x6A, 0x55, 0x12] = .ok (.ldImm 10 0x55, [0x12]) ∧ decodeBytes [0x6A] = .error .tooShort := by
  decide

/-! ### Control flow (T1, T4, T5, T7, T8 to T19) -/

theorem test_jp : after 0x1ABC State.reset (·.pc) = some 0x0ABC := by decide

theorem test_call_fills_the_last_slot :
    after 0x2300 { State.reset with sp := 15 } (fun t => (t.stack[15], t.sp, t.pc)) = some (0x200, 16, 0x300) := by decide

theorem test_call_overflow :
    after 0x2300 { State.reset with sp := 16 } (fun t => (t.faultCode, t.sp, t.pc)) = some (3, 16, 0x200) := by decide

theorem test_ret :
    after 0x00EE { State.reset with pc := 0x400, sp := 2, stack := State.reset.stack.set 1 0x0FFE }
      (fun t => (t.sp, t.pc, t.stack[1])) = some (1, 0x1000, 0x0FFE) := by decide

theorem test_ret_underflow : after 0x00EE State.reset (fun t => (t.faultCode, t.pc)) = some (4, 0x200) := by decide

theorem test_se_imm :
    after 0x3A42 (withRegs [(10, 0x42)]) (·.pc) = some 0x204 ∧ after 0x3A42 (withRegs [(10, 0x43)]) (·.pc) = some 0x202 := by
  decide

theorem test_sne_imm :
    after 0x4A42 (withRegs [(10, 0x42)]) (·.pc) = some 0x202 ∧ after 0x4A42 (withRegs [(10, 0x43)]) (·.pc) = some 0x204 := by
  decide

theorem test_se_reg :
    after 0x5AB1 (withRegs [(10, 9), (11, 9)]) (·.pc) = some 0x204 ∧
      after 0x5AB7 (withRegs [(10, 9), (11, 8)]) (·.pc) = some 0x202 := by decide

theorem test_sne_reg :
    after 0x9AB0 (withRegs [(10, 9), (11, 8)]) (·.pc) = some 0x204 ∧
      after 0x9ABF (withRegs [(10, 9), (11, 9)]) (·.pc) = some 0x202 := by decide

theorem test_jp_v0_past_memory :
    after 0xBFFF (withRegs [(0, 0xFF)]) (fun t => (t.pc, t.reg 15)) = some (0x10FE, 0) := by decide

theorem test_skip_from_the_last_word : after 0x3000 { State.reset with pc := 0xFFE } (·.pc) = some 0x1002 := by decide

/-! ### Loads, arithmetic, logic (T20 to T55) -/

theorem test_ld_imm_vf : after 0x6F7B State.reset (fun t => (t.reg 15, t.pc)) = some (0x7B, 0x202) := by decide

theorem test_add_imm_wraps_without_flag :
    after 0x7A01 (withRegs [(10, 0xFF)]) (fun t => (t.reg 10, t.reg 15)) = some (0, 0) := by decide

theorem test_ld_reg : after 0x8AB0 (withRegs [(10, 1), (11, 0x99), (15, 7)]) (fun t => (t.reg 10, t.reg 15)) =
    some (0x99, 7) := by decide

theorem test_or : after 0x8AB1 (withRegs [(10, 0x55), (11, 0xAA), (15, 1)]) (fun t => (t.reg 10, t.reg 15)) =
    some (0xFF, 1) := by decide

theorem test_and : after 0x8AB2 (withRegs [(10, 0x5F), (11, 0xF5), (15, 1)]) (fun t => (t.reg 10, t.reg 15)) =
    some (0x55, 1) := by decide

theorem test_xor : after 0x8AA3 (withRegs [(10, 0x5A), (15, 1)]) (fun t => (t.reg 10, t.reg 15)) = some (0, 1) := by decide

theorem test_add_carry_at_its_edge :
    after 0x8AB4 (withRegs [(10, 0xFF), (11, 0x00), (15, 1)]) (fun t => (t.reg 10, t.reg 15)) = some (0xFF, 0) ∧
      after 0x8AB4 (withRegs [(10, 0xFF), (11, 0x01)]) (fun t => (t.reg 10, t.reg 15)) = some (0, 1) := by decide

theorem test_add_into_and_from_vf :
    after 0x8FA4 (withRegs [(15, 0x10), (10, 0x20)]) (·.reg 15) = some 0 ∧
      after 0x8AF4 (withRegs [(10, 0xFF), (15, 1)]) (fun t => (t.reg 10, t.reg 15)) = some (0, 1) := by decide

theorem test_sub_borrow_and_equal :
    after 0x8AB5 (withRegs [(10, 3), (11, 5)]) (fun t => (t.reg 10, t.reg 15)) = some (0xFE, 0) ∧
      after 0x8AB5 (withRegs [(10, 7), (11, 7)]) (fun t => (t.reg 10, t.reg 15)) = some (0, 1) := by decide

theorem test_sub_into_and_from_vf :
    after 0x8FA5 (withRegs [(15, 3), (10, 5)]) (·.reg 15) = some 0 ∧
      after 0x8AF5 (withRegs [(10, 5), (15, 3)]) (fun t => (t.reg 10, t.reg 15)) = some (2, 1) := by decide

theorem test_shr_ignores_vy :
    after 0x8AB6 (withRegs [(10, 0xFF), (11, 0x12)]) (fun t => (t.reg 10, t.reg 11, t.reg 15)) = some (0x7F, 0x12, 1) ∧
      after 0x8FB6 (withRegs [(15, 3)]) (·.reg 15) = some 1 := by decide

theorem test_subn :
    after 0x8AB7 (withRegs [(10, 1), (11, 0)]) (fun t => (t.reg 10, t.reg 15)) = some (0xFF, 0) ∧
      after 0x8AB7 (withRegs [(10, 3), (11, 5)]) (fun t => (t.reg 10, t.reg 15)) = some (2, 1) := by decide

theorem test_shl_ignores_vy :
    after 0x8ABE (withRegs [(10, 0x40), (11, 0x12), (15, 1)]) (fun t => (t.reg 10, t.reg 11, t.reg 15)) =
        some (0x80, 0x12, 0) ∧
      after 0x8FBE (withRegs [(15, 0x81)]) (·.reg 15) = some 1 := by decide

/-! ### Index register and memory (T60 to T87) -/

theorem test_ld_i : after 0xAFFF State.reset (·.I) = some 0x0FFF := by decide

theorem test_add_i_flag_at_its_edge :
    after 0xFA1E { withRegs [(15, 1)] with I := 0x0FFF } (fun t => (t.I, t.reg 15)) = some (0x0FFF, 0) ∧
      after 0xFF1E { withRegs [(15, 1)] with I := 0x0FFF } (fun t => (t.I, t.reg 15)) = some (0x1000, 1) := by decide

theorem test_add_i_wraps :
    after 0xFA1E { withRegs [(10, 2)] with I := 0xFFFF } (fun t => (t.I, t.reg 15)) = some (0x0001, 1) := by decide

theorem test_ld_font_is_not_masked : after 0xFA29 (withRegs [(10, 0xFF)]) (·.I) = some 0x04FB := by decide

theorem test_bcd_at_the_top :
    after 0xFA33 { withRegs [(10, 255)] with I := 0xFFD } (fun t => (bytesAt t 0xFFD 3, t.I)) =
      some ([2, 5, 5], 0xFFD) := by decide

theorem test_bcd_faults_without_a_byte_written :
    after 0xFA33 { withRegs [(10, 1)] with I := 0xFFE } (fun t => (t.faultCode, bytesAt t 0xFFE 2)) = some (6, [0, 0]) ∧
      after 0xFA33 { withRegs [(10, 1)] with I := 0x1FF } (fun t => (t.faultCode, bytesAt t 0x200 2)) =
        some (7, [0xFA, 0x33]) := by decide

theorem test_store_v0_alone :
    after 0xF055 { withRegs [(0, 0xAB), (1, 0xCD)] with I := 0x300 } (fun t => (bytesAt t 0x300 2, t.I)) =
      some ([0xAB, 0], 0x301) := by decide

theorem test_store_all_at_the_top :
    after 0xFF55 { withRegs [(0, 1), (14, 0xEE), (15, 0xFF)] with I := 0xFF0 }
      (fun t => (t.mem.read 0xFF0, t.mem.read 0xFFE, t.mem.read 0xFFF, t.I)) = some (1, 0xEE, 0xFF, 0x1000) := by decide

theorem test_load_from_the_font :
    after 0xF465 { State.reset with I := 0x005 } (fun t => ([t.reg 0, t.reg 1, t.reg 2, t.reg 3, t.reg 4], t.I)) =
      some ([0x20, 0x60, 0x20, 0x20, 0x70], 0x00A) := by decide

theorem test_load_past_the_top_faults :
    after 0xF165 { withRegs [(0, 9)] with I := 0xFFF } (fun t => (t.faultCode, t.reg 0, t.I)) = some (5, 9, 0xFFF) := by
  decide

/-! ### Display (T90 to T101) -/

theorem test_cls :
    after 0x00E0 { withRegs [(15, 1)] with fb := (State.reset.fb.set 0 1).set 31 0x8000000000000000 }
      (fun t => (t.fb[0], t.fb[31], t.drawFlag, t.reg 15)) = some (0, 0, true, 1) := by decide

theorem test_drw_wraps_right :
    after 0xDAB1 (withBytes { withRegs [(10, 62)] with I := 0x300 } [(0x300, 0xFF)])
      (fun t => (t.fb[0], t.reg 15, t.drawFlag)) = some (0xC00000000000003F, 0, true) := by decide

theorem test_drw_collides :
    after 0xDAF1 (withBytes { withRegs [(10, 3), (15, 4)] with I := 0x300, fb := State.reset.fb.set 4 8 } [(0x300, 0x80)])
      (fun t => (t.fb[4], t.reg 15)) = some (0, 1) := by decide

theorem test_drw_no_rows :
    after 0xDAB0 { withRegs [(15, 1)] with I := 0xFFFF } (fun t => (t.faultCode, t.reg 15, t.drawFlag)) =
      some (0, 0, true) := by decide

theorem test_drw_faults_before_a_pixel :
    after 0xDAB2 (withBytes { withRegs [(15, 1)] with I := 0xFFF } [(0xFFF, 0xFF)])
      (fun t => (t.faultCode, t.fb[0], t.reg 15, t.drawFlag)) = some (5, 0, 1, false) := by decide

/-! ### Keys, timers, random (T110 to T132) -/

theorem test_skp :
    after 0xEA9E { withRegs [(10, 15)] with keys := 0x8000 } (·.pc) = some 0x204 ∧
      after 0xEA9E { withRegs [(10, 16)] with keys := 0xFFFF } (fun t => (t.faultCode, t.pc)) = some (8, 0x200) := by decide

theorem test_sknp :
    after 0xEAA1 { State.reset with keys := 0x0001 } (·.pc) = some 0x202 ∧
      after 0xEAA1 { State.reset with keys := 0xFFFE } (·.pc) = some 0x204 := by decide

theorem test_rnd_masks_every_bit_away (s : State) : seen (·.reg 10) (exec (.rnd 10 0) s) = some 0 := by
  simp [seen, exec, execRnd]

theorem test_read_delay : after 0xFA07 { State.reset with DT := 0x80 } (fun t => (t.reg 10, t.DT)) = some (0x80, 0x7F) := by
  decide

theorem test_wait_key_waits :
    after 0xFA0A { withRegs [(10, 9)] with DT := 5, ST := 5 } (fun t => (t.pc, t.DT, t.ST, t.reg 10, t.beep)) =
      some (0x200, 5, 5, 9, false) := by decide

theorem test_wait_key_with_one_key (pick : Nat) : chooseKey pick 0x0080 = some 7 := by
  have h : downKeys 0x0080 = [7] := by decide
  rw [chooseKey, h]
  simp [Nat.mod_one]

theorem test_write_delay : after 0xFA15 (withRegs [(10, 0xFF)]) (·.DT) = some 0xFE := by decide

theorem test_write_sound :
    after 0xFA18 (withRegs [(10, 1)]) (fun t => (t.ST, t.beep)) = some (0, true) ∧
      after 0xFA18 { State.reset with ST := 9 } (fun t => (t.ST, t.beep)) = some (0, false) := by decide

/-! ### The cycle, reset and load (T140 to T175) -/

theorem test_sys :
    after 0x0123 { State.reset with DT := 3, ST := 2 } (fun t => (t.report, t.pc, t.DT, t.ST, t.beep, t.faultCode)) =
      some (some (.decodeError 0x0123), 0x200, 2, 1, true, 0) := by decide

theorem test_unrecognised_word :
    after 0x8AB9 { State.reset with DT := 3, ST := 2 } (fun t => (t.report, t.pc, t.DT, t.ST, t.beep, t.faultCode)) =
      some (some (.decodeError 0x8AB9), 0x200, 2, 1, true, 0) := by decide

theorem test_last_fetch_address :
    seen (·.pc) (step (withBytes { State.reset with pc := 0xFFE } [(0xFFE, 0x12), (0xFFF, 0x00)])) = some 0x200 := by decide

theorem test_fetch_fault :
    seen (fun t => (t.faultCode, t.pc, t.DT)) (step { State.reset with pc := 0x10FE, DT := 4 }) = some (2, 0x10FE, 4) := by
  decide

theorem test_odd_pc_is_big_endian :
    seen (fun t => (t.reg 10, t.pc)) (step (withBytes { State.reset with pc := 0x201 } [(0x201, 0x6A), (0x202, 0x55)])) =
      some (0x55, 0x203) := by decide

theorem test_font_in_memory :
    seen (fun t => (bytesAt t 0 6, bytesAt t 0x4F 2, t.report)) (handle (.reset none) State.reset) =
      some ([0xF0, 0x90, 0x90, 0x90, 0xF0, 0x20], [0x80, 0], some .loadMissing) := by decide

theorem test_one_byte_rom :
    seen (fun t => (bytesAt t 0x1FF 3, t.pc, t.fault, t.reg 0))
        (handle (.reset (some [0x12])) { withRegs [(0, 7)] with fault := some .stackOverflow }) =
      some ([0, 0x12, 0], 0x200, none, 0) := by decide

theorem test_too_large_rom (s : State) (rom : List Byte) (h : rom.length = 3585) :
    seen (fun t => (t.report.map Report.code, t.mem)) (handle (.reset (some rom)) s) = some (some 10, []) := by
  simp [seen, handle, State.resetWith, loadRom, Report.code, h]

theorem test_reset_memory_is_canonical : State.reset.mem.wf = true := by decide

/-! ### Witnesses: the hypotheses of each statement of Obligations can be met together, clause by clause -/

theorem witness_DecodingAnEncodedInstructionGivesItBack :
    (Instr.sys 0xFFF).wellFormed = true ∧ (Instr.drw 15 15 15).wellFormed = true := by decide

theorem witness_EncodingADecodedWordGivesItBack :
    decodeWord 0x8FFE = .ok (.shl 15 15) ∧ decodeWord 0x0FFF = .ok (.sys 0xFFF) := by decide

theorem witness_DecoderIsTheOpcodeMapInFirstMatchOrder :
    decodeWord 0xFF65 = .ok (.loadRegs 15) ∧ decodeWord 0xFF66 = .error .noFamilyFOperation := by decide

theorem witness_UnrecognisedWordsAreExactlyTheUnusedSubcodes :
    recognised 0x0FFF = false ∧ recognised 0x800F = false ∧ recognised 0xE09D = false ∧ recognised 0xF064 = false := by
  decide

/-- An ordinary instruction, one that faults, and a key wait with no key down. -/
theorem witness_StepRunsTheDecodedInstruction :
    (∃ (s t : State) (i : Instr), s.fetches ∧ decodeWord s.wordAtPc = .ok i ∧ exec i s.clearOutputs = .next t ∧
      t.fault = none ∧ ¬ ((∃ x, i = .waitKey x) ∧ s.keys = 0)) ∧
    (∃ (s t : State) (i : Instr), s.fetches ∧ decodeWord s.wordAtPc = .ok i ∧ exec i s.clearOutputs = .next t ∧
      t.fault ≠ none) ∧
    (∃ (s t : State) (i : Instr), s.fetches ∧ decodeWord s.wordAtPc = .ok i ∧ exec i s.clearOutputs = .next t ∧
      (∃ x, i = .waitKey x) ∧ s.keys = 0) := by
  refine ⟨⟨State.reset.withFetchWord 16 0x1FFF, _, .jp 0xFFF, ⟨by decide, by decide⟩, by decide, rfl, by decide, ?_⟩,
    ⟨State.reset.withFetchWord 16 0x00EE, (State.reset.withFetchWord 16 0x00EE).clearOutputs.raise (.stackUnderflow 0x200),
      .ret, ⟨by decide, by decide⟩, by decide, rfl, by decide⟩,
    ⟨State.reset.withFetchWord 16 0xF00A, (State.reset.withFetchWord 16 0xF00A).clearOutputs, .waitKey 0,
      ⟨by decide, by decide⟩, by decide, rfl, ⟨0, rfl⟩, by decide⟩⟩
  rintro ⟨⟨x, hx⟩, -⟩
  cases hx

/-- The empty reset memory at pc (SYS 000), and an unused sub-code at the last fetch address. -/
theorem witness_UnrecognisedWordIsReportedAndTimersRun :
    (State.reset.fetches ∧ recognised State.reset.wordAtPc = false) ∧
    (let s := { State.reset with pc := 0xFFE }.withFetchWord 16 0xFFFF
     s.fetches ∧ recognised s.wordAtPc = false) :=
  ⟨⟨⟨by decide, by decide⟩, by decide⟩, ⟨⟨by decide, by decide⟩, by decide⟩⟩

theorem witness_DecodeErrorRecursForEver :
    { State.reset with ST := 1, pc := 0x50 }.fetches ∧ recognised { State.reset with ST := 1, pc := 0x50 }.wordAtPc = false :=
  ⟨⟨by decide, by decide⟩, by decide⟩

theorem witness_FetchBeyondMemoryFaults :
    { State.reset with pc := 0xFFF }.fault = none ∧ { State.reset with pc := 0xFFF }.pc.toNat > 0xFFE := by decide

theorem witness_FaultedMachineDoesNothing : { State.reset with fault := some .protectedWrite }.fault ≠ none := by decide

/-- A fault in fetch and a fault in execution. -/
theorem witness_FaultsArePrecise :
    (∃ t, step { State.reset with pc := 0xFFF } = .next t ∧ t.fault = some .fetchOutOfRange) ∧
    (∃ t, step (State.reset.withFetchWord 16 0x00EE) = .next t ∧ t.fault = some .stackUnderflow) :=
  ⟨⟨State.raise _ (.fetchOutOfRange 0xFFF), rfl, rfl⟩, ⟨State.raise _ (.stackUnderflow 0x200), rfl, rfl⟩⟩

theorem witness_OnlyEightInstructionsFault :
    ∃ t, exec (.jpV0 0xFFF) (withRegs [(0, 0xFF)]) = .next t ∧ mayFault (.jpV0 0xFFF) = false := ⟨_, rfl, rfl⟩

/-- The three kinds of cycle without a timer step, and one with it. -/
theorem witness_TimersStepInEveryCycleButThreeKinds :
    (∃ t, step { State.reset with fault := some .stackOverflow } = .next t) ∧
    (∃ t, step { State.reset with pc := 0xFFF } = .next t ∧ t.fault ≠ none) ∧
    (∃ t, step (State.reset.withFetchWord 16 0xFF0A) = .next t ∧ (State.reset.withFetchWord 16 0xFF0A).waits) ∧
    (∃ t, step (State.reset.withFetchWord 16 0xF015) = .next t ∧ t.fault = none ∧
      ¬ (State.reset.withFetchWord 16 0xF015).waits) := by
  refine ⟨⟨_, rfl⟩, ⟨State.raise _ (.fetchOutOfRange 0xFFF), rfl, by decide⟩, ⟨_, rfl, ⟨15, by decide⟩, by decide⟩,
    ⟨_, rfl, by decide, ?_⟩⟩
  rintro ⟨⟨x, hx⟩, -⟩
  rw [show decodeWord (State.reset.withFetchWord 16 0xF015).wordAtPc = .ok (.writeDelay 0) by decide] at hx
  cases hx

/-- The end of a run, and one state for each of the three hangs that are no end. -/
theorem witness_RunEndsExactlyAtASelfJump :
    ((State.reset.withFetchWord 16 0x1200).fetches ∧
      (State.reset.withFetchWord 16 0x1200).wordAtPc.toNat = 0x1000 + (State.reset.withFetchWord 16 0x1200).pc.toNat) ∧
    { State.reset with fault := some .stackOverflow }.fault ≠ none ∧ recognised State.reset.wordAtPc = false ∧
    (State.reset.withFetchWord 16 0xFF0A).waits :=
  ⟨⟨⟨by decide, by decide⟩, by decide⟩, by decide, by decide, ⟨15, by decide⟩, by decide⟩

/-- P1 of 95_test_vectors ends in the word 0x120C at 0x20C; the highest jump to itself that can be fetched is at 0xFFE. -/
theorem witness_SelfJumpOnlyRunsTheTimers :
    ({ State.reset with pc := 0x20C, ST := 1 }.withFetchWord 16 0x120C).runEnded = true ∧
      ({ State.reset with pc := 0xFFE }.withFetchWord 16 0x1FFE).runEnded = true := by decide

/-- R17: a jump elsewhere, the DecodeError loop, a key wait and a fault are no ends of a run. -/
theorem test_not_an_end_of_a_run :
    (State.reset.withFetchWord 16 0x1202).runEnded = false ∧ State.reset.runEnded = false ∧
      (State.reset.withFetchWord 16 0xFF0A).runEnded = false ∧
      { State.reset.withFetchWord 16 0x1200 with fault := some .stackOverflow }.runEnded = false ∧
      { State.reset with pc := 0xFFF }.runEnded = false := by decide

theorem witness_KeyWaitFreezesTheMachine :
    (State.reset.withFetchWord 16 0xFA0A).fetches ∧
      decodeWord (State.reset.withFetchWord 16 0xFA0A).wordAtPc = .ok (.waitKey 10) ∧
      (State.reset.withFetchWord 16 0xFA0A).keys = 0 := ⟨⟨by decide, by decide⟩, by decide⟩

theorem witness_KeysAndRandomMatterOnlyToTheirInstructions :
    ∃ t : State, exec (.loadRegs 15) State.reset = .next t ∧ readsKeys (.loadRegs 15) = false ∧
      (∀ x nn, Instr.loadRegs 15 ≠ .rnd x nn) ∧ (∀ x, Instr.loadRegs 15 ≠ .waitKey x) :=
  ⟨_, rfl, rfl, by simp, by simp⟩

theorem witness_ResetLoadsTheRomOverFontAndZeros :
    (List.replicate 3584 (0xAA : Byte)).length ≤ 3584 ∧ ([] : List Byte).length ≤ 3584 :=
  ⟨Nat.le_of_eq List.length_replicate, Nat.zero_le _⟩

theorem witness_TooLargeRomIsReportedAndNotCopied : ∃ rom : List Byte, rom.length = 3585 ∧ rom.length > 3584 :=
  ⟨List.replicate 3585 0xAA, List.length_replicate, by rw [List.length_replicate]; omega⟩

theorem witness_PlacedWordIsTheNextOneFetched : 65535 < 65536 ∧ 0 < 65536 := by decide

theorem witness_DrawFlagIsSetByClearAndDrawAlone :
    State.reset.fault = none ∧ (∃ t, exec .cls State.reset = .next t) ∧ (∃ t, exec (.drw 0 0 15) State.reset = .next t) ∧
      (∃ t, exec .ret State.reset = .next t) := ⟨rfl, ⟨_, rfl⟩, ⟨_, rfl⟩, ⟨_, rfl⟩⟩

theorem witness_VFIsWrittenOnlyByItsInstructions :
    (∃ t, exec (.ldImm 14 1) State.reset = .next t ∧ writesFlag (.ldImm 14 1) = false ∧
      writesVFPlainly (.ldImm 14 1) = false) ∧
    (∃ t, exec (.drw 15 15 1) State.reset = .next t ∧ writesFlag (.drw 15 15 1) = true ∧ State.reset.fault = none ∧
      t.fault = none) := ⟨⟨_, rfl, rfl, rfl⟩, ⟨_, rfl, rfl, rfl, by decide⟩⟩

/-- ADD V15, V15 meets the hypotheses of every clause. -/
theorem witness_EachPartIsWrittenOnlyByItsInstructions :
    ∃ t, exec (.addReg 15 15) State.reset = .next t ∧
      (∀ n, Instr.addReg 15 15 ≠ .call n) ∧ Instr.addReg 15 15 ≠ .ret ∧ (∀ x, Instr.addReg 15 15 ≠ .writeDelay x) ∧
      (∀ x, Instr.addReg 15 15 ≠ .writeSound x) ∧ Instr.addReg 15 15 ≠ .cls ∧ (∀ x y n, Instr.addReg 15 15 ≠ .drw x y n) ∧
      (∀ x, Instr.addReg 15 15 ≠ .bcd x ∧ Instr.addReg 15 15 ≠ .storeRegs x ∧ Instr.addReg 15 15 ≠ .addI x ∧
        Instr.addReg 15 15 ≠ .ldFont x ∧ Instr.addReg 15 15 ≠ .loadRegs x) ∧ (∀ n, Instr.addReg 15 15 ≠ .ldI n) :=
  ⟨_, rfl, by simp⟩

theorem witness_NoCycleWritesOutsideProgramMemory :
    (∃ t, step (withBytes { State.reset with I := 0xFFF } [(0x200, 0xF0), (0x201, 0x55)]) = .next t) ∧
      (0x1FF < 0x200 ∨ 0xFFF < 0x1FF) ∧ (0x1000 < 0x200 ∨ 0xFFF < 0x1000) := ⟨⟨_, rfl⟩, by decide⟩

/-- A state with the invariant at its limits: pc at 0x10FE, a full stack with slots at 0xFFE, cells at both ends. -/
def limitState : State :=
  { State.reset with
    pc := 0x10FE, sp := 16, stack := Vector.replicate 16 0xFFE, fault := some .stackOverflow
    mem := [(0x200, 1), (0xFFF, 2)] }

/-- A state with the invariant that runs: a CALL at the last fetch address with one free slot. -/
def callState : State :=
  { State.reset with
    pc := 0xFFE, sp := 15, stack := Vector.replicate 16 0xFFE, beep := true, mem := [(0xFFE, 0x22), (0xFFF, 0x34)] }

theorem limitState_inv : limitState.Inv := ⟨by decide, by decide, by decide, by decide, by decide⟩

theorem callState_inv : callState.Inv := ⟨by decide, by decide, by decide, by decide, by decide⟩

theorem witness_EveryCycleKeepsTheInvariant :
    (limitState.Inv ∧ ∃ t, step limitState = .next t) ∧ callState.Inv ∧ ∃ t, step callState = .next t ∧ t.sp.val = 16 :=
  ⟨⟨limitState_inv, ⟨_, rfl⟩⟩, callState_inv, ⟨_, rfl, by decide⟩⟩

theorem witness_EveryHistoryKeepsTheInvariant :
    callState.Inv ∧ ∃ t, runEvents [.cycle, .setKeys 0x8000, .drawAck, .reset (some [0x12]), .cycle] callState = .next t :=
  ⟨callState_inv, ⟨_, rfl⟩⟩

theorem witness_MemWriteChecksAndStoresOneByte :
    (0x1000 > 0xFFF) ∧ (0x1FF < 0x200) ∧ (0x200 ≤ 0x200 ∧ 0x200 ≤ 0xFFF) ∧ (0x200 ≤ 0xFFF ∧ 0xFFF ≤ 0xFFF) := by decide

theorem witness_MemoriesThatReadAlikeAreEqual :
    ∃ m m' : Memory, m.wf = true ∧ m'.wf = true ∧ m ≠ [] ∧ ∀ a, m.read a = m'.read a :=
  ⟨[(0x200, 1), (0xFFF, 2)], [(0x200, 1), (0xFFF, 2)], by decide, by decide, by decide, fun _ => rfl⟩

theorem witness_StoredBytesAreFetchedAsTheyStand :
    ∃ t u : State, ({ withRegs [(0, 0x12), (1, 0x0A)] with I := 0x208 }).fault = none ∧
      exec (.storeRegs 1) { withRegs [(0, 0x12), (1, 0x0A)] with I := 0x208 } = .next t ∧ t.fault = none ∧
      (0 : Reg).val + 1 = (1 : Reg).val ∧ (1 : Reg) ≤ 1 ∧ u.mem = t.mem ∧
      u.pc.toNat = ({ withRegs [(0, 0x12), (1, 0x0A)] with I := 0x208 }).ea (0 : Reg).val :=
  ⟨_, { State.reset with pc := 0x208, mem := _ }, by decide, rfl, by decide, rfl, by decide, rfl, by decide⟩

theorem witness_ReturnPopsTheStack :
    0 < { State.reset with sp := 1 }.sp.val ∧ 0 < { State.reset with sp := 16 }.sp.val ∧ State.reset.sp.val = 0 := by decide

theorem witness_CallPushesItsOwnAddress :
    State.reset.sp.val < 16 ∧ { State.reset with sp := 15 }.sp.val < 16 ∧ { State.reset with sp := 16 }.sp.val = 16 := by
  decide

theorem witness_ReturnComesBackAfterTheCall :
    ∃ t, { State.reset with sp := 15 }.sp.val < 16 ∧ exec (.call 0x300) { State.reset with sp := 15 } = .next t ∧
      (t.setPc 0x300).sp = t.sp ∧ (t.setPc 0x300).stack = t.stack := ⟨_, by decide, rfl, rfl, rfl⟩

/-- The clause on VX asks for X other than 0xF (for the additions, the subtractions and the shifts alike). -/
theorem witness_AddWritesSumAndCarry : (14 : Reg) ≠ regF := by decide

theorem witness_SubtractionsWriteDifferenceAndNotBorrow : (0 : Reg) ≠ regF := by decide

theorem witness_ShiftsMoveOneBitAndKeepItInVF : (10 : Reg) ≠ regF := by decide

theorem witness_BcdStoresThreeDigitsOrFaults :
    (0x200 ≤ { State.reset with I := 0x200 }.ea 0 ∧ { State.reset with I := 0x200 }.ea 2 ≤ 0xFFF) ∧
    (0x200 ≤ { State.reset with I := 0xFFD }.ea 0 ∧ { State.reset with I := 0xFFD }.ea 2 ≤ 0xFFF) ∧
    { State.reset with I := 0xFFE }.ea 2 > 0xFFF ∧ { State.reset with I := 0x1FF }.ea 0 < 0x200 := by decide

theorem witness_BlockStoreWritesV0ToVXOrFaults :
    (0x200 ≤ { State.reset with I := 0x200 }.ea 0 ∧ { State.reset with I := 0x200 }.ea (15 : Reg).val ≤ 0xFFF) ∧
    (0x200 ≤ { State.reset with I := 0xFFF }.ea 0 ∧ { State.reset with I := 0xFFF }.ea (0 : Reg).val ≤ 0xFFF) ∧
    { State.reset with I := 0xFF1 }.ea (15 : Reg).val > 0xFFF ∧ { State.reset with I := 0x1FF }.ea 0 < 0x200 := by decide

theorem witness_BlockLoadReadsV0ToVXOrFaults :
    { State.reset with I := 0xFF0 }.ea (15 : Reg).val ≤ 0xFFF ∧ State.reset.ea (0 : Reg).val ≤ 0xFFF ∧
      { State.reset with I := 0xFFF }.ea (1 : Reg).val > 0xFFF := by decide

theorem witness_DrawTogglesTheSpriteAndReportsCollision :
    ((0 : Nibble).toNat = 0 ∨ { State.reset with I := 0xFFFF }.ea ((0 : Nibble).toNat - 1) ≤ 0xFFF) ∧
    ((15 : Nibble).toNat = 0 ∨ { State.reset with I := 0xFF1 }.ea ((15 : Nibble).toNat - 1) ≤ 0xFFF) ∧
    ((2 : Nibble).toNat ≠ 0 ∧ { State.reset with I := 0xFFF }.ea ((2 : Nibble).toNat - 1) > 0xFFF) := by decide

/-- A sprite with a set bit, on a clear screen and over a set pixel: both cases of the collision. -/
theorem witness_sprite_covers_a_clear_and_a_set_pixel :
    (SpriteCovers State.reset 0 0 1 (0, 0) ∧ pixel State.reset.fb (0, 0) = false) ∧
    (SpriteCovers { State.reset with fb := State.reset.fb.set 0 1 } 0 0 1 (0, 0) ∧
      pixel ({ State.reset with fb := State.reset.fb.set 0 1 }).fb (0, 0) = true) :=
  ⟨⟨⟨0, by decide, 0, by decide, by decide, by decide, by decide⟩, by decide⟩,
    ⟨⟨0, by decide, 0, by decide, by decide, by decide, by decide⟩, by decide⟩⟩

/-- The first draw writes VF, which is the sprite's X here, so the second state puts VF back. -/
theorem witness_DrawingTwiceRestoresTheFramebuffer :
    ∃ t u : State, ((5 : Nibble).toNat = 0 ∨ (withRegs [(15, 63)]).ea ((5 : Nibble).toNat - 1) ≤ 0xFFF) ∧
      exec (.drw 15 0 5) (withRegs [(15, 63)]) = .next t ∧ u.fb = t.fb ∧ u.mem = (withRegs [(15, 63)]).mem ∧
      u.I = (withRegs [(15, 63)]).I ∧ u.reg 15 = (withRegs [(15, 63)]).reg 15 ∧ u.reg 0 = (withRegs [(15, 63)]).reg 0 :=
  ⟨_, { withRegs [(15, 63)] with fb := _ }, by decide, rfl, rfl, rfl, rfl, rfl, rfl⟩

theorem witness_RandomByteIsMasked : (0xFE : Byte).getLsbD 0 = false := by decide

theorem witness_KeySkipsTestTheKeyVXNames :
    ((withRegs [(10, 15)]).reg 10).toNat ≤ 15 ∧ ((withRegs [(10, 16)]).reg 10).toNat > 15 := by decide

/-- No key, several keys, and one key alone. -/
theorem witness_KeyWaitDeliversAKeyThatIsDown :
    State.reset.keys = 0 ∧ { State.reset with keys := 0xFFFF }.keys ≠ 0 ∧ { State.reset with keys := 0x8000 }.keys ≠ 0 ∧
      ∀ k, ({ State.reset with keys := 0x8000 }).keys.getLsbD k = true → k = 15 := by
  refine ⟨rfl, by decide, by decide, fun k hk => ?_⟩
  have hlt : k < 16 := BitVec.lt_of_getLsbD hk
  have hall : ∀ j : Fin 16, (0x8000 : BitVec 16).getLsbD j.val = true → j = 15 := by decide
  simpa using congrArg Fin.val (hall ⟨k, hlt⟩ hk)

end Sys2Proof.Tests
end

/-! PROOFS. Control flow: jumps and the skips on an immediate (41_control_flow R111, R113, R114, R117). -/

namespace Sys2Proof.Machine

/-! ### What the jumps and the skips on an immediate mean -/

theorem exec_jp (nnn : Addr12) (s : State) : exec (.jp nnn) s = .next (s.setPc (zextAddr nnn)) := rfl

theorem exec_jpV0 (nnn : Addr12) (s : State) :
    exec (.jpV0 nnn) s = .next (s.setPc (zextAddr nnn + zextByte (s.reg 0))) := rfl

theorem exec_seImm (x : Reg) (nn : Byte) (s : State) :
    exec (.seImm x nn) s = .next (s.skipIf (s.reg x == nn)) := rfl

theorem exec_sneImm (x : Reg) (nn : Byte) (s : State) :
    exec (.sneImm x nn) s = .next (s.skipIf (s.reg x != nn)) := rfl

/-! ### Writes of pc, in numbers and as frames -/

@[simp] theorem toNat_zextAddr (nnn : Addr12) : (zextAddr nnn).toNat = nnn.toNat :=
  BitVec.toNat_setWidth_of_le (by decide)

@[simp] theorem toNat_zextByte (b : Byte) : (zextByte b).toNat = b.toNat :=
  BitVec.toNat_setWidth_of_le (by decide)

/-- The target of BNNN never wraps: it is at most 0xFFF + 0xFF (41_control_flow R117). -/
theorem toNat_zextAddr_add_zextByte (nnn : Addr12) (b : Byte) :
    (zextAddr nnn + zextByte b).toNat = nnn.toNat + b.toNat := by
  rw [BitVec.toNat_add, toNat_zextAddr, toNat_zextByte]
  exact Nat.mod_eq_of_lt (by omega)

theorem onlyChanges_setPc (s : State) (w : Word) : OnlyChanges (fun p => p = .pc) s (s.setPc w) := by
  intro p hp
  cases p with
  | pc => exact absurd rfl hp
  | _ => rfl

/-- A skip as the claims say it: pc and nothing else changes, by 4 where the tested condition holds and by 2 where it does
not, modulo 65536 (40_cycle R95). -/
theorem skipIf_spec (s : State) {c : Bool} {P : Prop} [Decidable P] (hc : c = true ↔ P) :
    OnlyChanges (fun p => p = .pc) s (s.skipIf c) ∧
      (s.skipIf c).pc.toNat = (s.pc.toNat + if P then 4 else 2) % 65536 := by
  refine ⟨onlyChanges_setPc s _, ?_⟩
  rw [State.skipIf_pc, BitVec.toNat_add, apply_ite BitVec.toNat]
  simp only [hc]
  rfl

/-! ### The statements -/

/-- Settles O37. -/
theorem jumpSetsPc : Obligations.JumpSetsPc := by
  intro s nnn
  exact ⟨_, exec_jp nnn s, toNat_zextAddr nnn, onlyChanges_setPc s _⟩

/-- Settles O38: the sum is exact, and its operands bound it. -/
theorem jumpWithOffsetAddsV0 : Obligations.JumpWithOffsetAddsV0 := by
  intro s nnn
  have hpc : (s.setPc (zextAddr nnn + zextByte (s.reg 0))).pc.toNat = nnn.toNat + (s.reg 0).toNat :=
    toNat_zextAddr_add_zextByte nnn (s.reg 0)
  exact ⟨_, exec_jpV0 nnn s, hpc, by omega, onlyChanges_setPc s _⟩

/-- Settles O39: both are `skipIf`, on the test and on its negation. -/
theorem skipsCompareWithAnImmediate : Obligations.SkipsCompareWithAnImmediate := by
  intro s x nn
  exact ⟨⟨_, exec_seImm x nn s, skipIf_spec s beq_iff_eq⟩, ⟨_, exec_sneImm x nn s, skipIf_spec s bne_iff_ne⟩⟩

end Sys2Proof.Machine

/-! PROOFS. Register load and addition with an immediate (42_alu R130, R131). -/

namespace Sys2Proof.Machine

/-! ### What the loads and additions of an immediate mean -/

theorem exec_ldImm (x : Reg) (nn : Byte) (s : State) : exec (.ldImm x nn) s = writeResult x nn s := rfl

theorem exec_addImm (x : Reg) (nn : Byte) (s : State) : exec (.addImm x nn) s = writeResult x (s.reg x + nn) s := rfl

/-! ### Writing a result without a flag, once for every instruction that does -/

/-- Whatever left pc alone before it, advancing moves pc by 2 (40_cycle R95). -/
theorem advances_advance {s u : State} (hpc : u.pc = s.pc) : Advances s u.advance := by
  rw [Advances, State.advance_pc, hpc]
  exact BitVec.toNat_add s.pc 2

theorem onlyChanges_setReg_advance (s : State) (x : Reg) (b : Byte) :
    OnlyChanges (fun p => p = .reg x ∨ p = .pc) s (s.setReg x b).advance := by
  intro p hp
  obtain ⟨hx, hpc⟩ := not_or.mp hp
  cases p with
  | reg k =>
    have hk : k ≠ x := fun h => hx (congrArg Part.reg h)
    simp [Part.same, hk]
  | pc => exact absurd rfl hpc
  | _ => rfl

theorem writeResult_spec (x : Reg) (b : Byte) (s : State) :
    ∃ t, writeResult x b s = .next t ∧ t.reg x = b ∧ Advances s t ∧ OnlyChanges (fun p => p = .reg x ∨ p = .pc) s t :=
  ⟨_, rfl, by simp, advances_advance (State.setReg_pc s x b), onlyChanges_setReg_advance s x b⟩

/-! ### The statement -/

/-- Settles O41: both write one result and no flag, and a byte's sum is the sum modulo 256. -/
theorem immediateLoadAndAddWriteVX : Obligations.ImmediateLoadAndAddWriteVX := by
  intro s x nn
  rw [exec_ldImm, exec_addImm]
  refine ⟨writeResult_spec x nn s, ?_⟩
  obtain ⟨t, hexec, hreg, hframe⟩ := writeResult_spec x (s.reg x + nn) s
  have hsum : (t.reg x).toNat = ((s.reg x).toNat + nn.toNat) % 256 := by
    rw [hreg, BitVec.toNat_add]
  exact ⟨t, hexec, hsum, hframe⟩

end Sys2Proof.Machine

/-! PROOFS. The load of I with an address (43_index_memory R150). -/

namespace Sys2Proof.Machine

/-! ### What the load of I means -/

theorem exec_ldI (nnn : Addr12) (s : State) : exec (.ldI nnn) s = .next (s.setI (zextAddr nnn)).advance := rfl

/-! ### Writing I, once for every instruction that writes nothing else -/

theorem onlyChanges_setI_advance (s : State) (w : Word) :
    OnlyChanges (fun p => p = .I ∨ p = .pc) s (s.setI w).advance := by
  intro p hp
  obtain ⟨hI, hpc⟩ := not_or.mp hp
  cases p with
  | I => exact absurd rfl hI
  | pc => exact absurd rfl hpc
  | _ => rfl

/-! ### The statement -/

/-- Settles O46: an address fits in I, so it is written whole. -/
theorem indexLoadWritesTheAddress : Obligations.IndexLoadWritesTheAddress := by
  intro s nnn
  have hI : (s.setI (zextAddr nnn)).advance.I.toNat = nnn.toNat := by
    rw [State.advance_I, State.setI_I, toNat_zextAddr]
  have hpc : Advances s (s.setI (zextAddr nnn)).advance := advances_advance (State.setI_pc s (zextAddr nnn))
  exact ⟨_, exec_ldI nnn s, hI, hpc, onlyChanges_setI_advance s (zextAddr nnn)⟩

end Sys2Proof.Machine

/-! PROOFS. The clear of the display (44_display R170). -/

namespace Sys2Proof.Machine

/-! ### What the clear means -/

theorem exec_cls (s : State) : exec .cls s = .next (s.setFb clearedFb).advance := rfl

@[simp] theorem pixel_clearedFb (p : Pixel) : pixel clearedFb p = false := by
  have hrow : clearedFb[p.2] = 0 := Vector.getElem_replicate p.2.isLt
  rw [pixel, hrow]
  exact BitVec.getLsbD_zero

/-! ### Replacing the framebuffer, whatever the new one is -/

theorem onlyChanges_setFb_advance (s : State) (f : Framebuffer) :
    OnlyChanges (fun p => (∃ q, p = .pixel q) ∨ p = .drawFlag ∨ p = .pc) s (s.setFb f).advance := by
  intro p hp
  obtain ⟨hpixel, hrest⟩ := not_or.mp hp
  obtain ⟨hdrawFlag, hpc⟩ := not_or.mp hrest
  cases p with
  | pixel q => exact absurd ⟨q, rfl⟩ hpixel
  | drawFlag => exact absurd rfl hdrawFlag
  | pc => exact absurd rfl hpc
  | _ => rfl

/-! ### The statement -/

/-- Settles O52: the framebuffer is replaced by the cleared one, and every pixel of that is 0. -/
theorem clearZeroesEveryPixel : Obligations.ClearZeroesEveryPixel := by
  intro s
  have hpc : Advances s (s.setFb clearedFb).advance := advances_advance (State.setFb_pc s clearedFb)
  exact ⟨_, exec_cls s, pixel_clearedFb, State.setFb_drawFlag s clearedFb, hpc, onlyChanges_setFb_advance s clearedFb⟩

end Sys2Proof.Machine

/-! PROOFS. The decoder and the encoder are inverse to each other, and both follow the opcode map (30_encoding R70 to R86). -/

namespace Sys2Proof

/-! ### A word is made of its fields (30_encoding R71, R72) -/

theorem formatNNN_fields (w : Word) : formatNNN (fieldOp w) (fieldNNN w) = w := by
  apply BitVec.eq_of_getLsbD_eq
  intro k hk
  rw [getLsbD_formatNNN, fieldOp, fieldNNN, BitVec.getLsbD_extractLsb', BitVec.getLsbD_extractLsb']
  interval_cases k <;> rfl

theorem toNat_formatNNN (op : BitVec 4) (nnn : Addr12) : (formatNNN op nnn).toNat = op.toNat * 4096 + nnn.toNat := by
  show (op ++ nnn).toNat = _
  rw [BitVec.toNat_append, ← Nat.shiftLeft_add_eq_or_of_lt nnn.isLt, Nat.shiftLeft_eq]

theorem formatXNN_fields (w : Word) : formatXNN (fieldOp w) (fieldX w) (fieldNN w) = w := by
  apply BitVec.eq_of_getLsbD_eq
  intro k hk
  rw [getLsbD_formatXNN, fieldOp, fieldX, fieldNN, regBits_regOf]
  simp only [BitVec.getLsbD_extractLsb']
  interval_cases k <;> rfl

theorem formatXYN_fields (w : Word) : formatXYN (fieldOp w) (fieldX w) (fieldY w) (fieldN w) = w := by
  apply BitVec.eq_of_getLsbD_eq
  intro k hk
  rw [getLsbD_formatXYN, fieldOp, fieldX, fieldY, fieldN, regBits_regOf, regBits_regOf]
  simp only [BitVec.getLsbD_extractLsb']
  interval_cases k <;> rfl

theorem formatNNN_of_fieldOp {w : Word} {op : BitVec 4} (hop : fieldOp w = op) : formatNNN op (fieldNNN w) = w :=
  hop ▸ formatNNN_fields w

theorem formatXNN_of_fieldOp {w : Word} {op : BitVec 4} (hop : fieldOp w = op) :
    formatXNN op (fieldX w) (fieldNN w) = w :=
  hop ▸ formatXNN_fields w

theorem formatXNN_of_fields {w : Word} {op : BitVec 4} {nn : Byte} (hop : fieldOp w = op) (hnn : fieldNN w = nn) :
    formatXNN op (fieldX w) nn = w :=
  hnn ▸ formatXNN_of_fieldOp hop

theorem formatXYN_of_fieldOp {w : Word} {op : BitVec 4} (hop : fieldOp w = op) :
    formatXYN op (fieldX w) (fieldY w) (fieldN w) = w :=
  hop ▸ formatXYN_fields w

theorem formatXYN_of_fields {w : Word} {op : BitVec 4} {n : Nibble} (hop : fieldOp w = op) (hn : fieldN w = n) :
    formatXYN op (fieldX w) (fieldY w) n = w :=
  hn ▸ formatXYN_of_fieldOp hop

/-! ### Decode after encode -/

/-- SYS is the one row whose word another row can have: those two words are what its well-formedness shuts out (R85). -/
theorem decodeFamily0_formatNNN {nnn : Addr12} (hE0 : nnn ≠ 0x0E0#12) (hEE : nnn ≠ 0x0EE#12) :
    decodeFamily0 (formatNNN 0x0 nnn) = .sys nnn := by
  have hcls : formatNNN 0x0 nnn ≠ 0x00E0#16 := fun h => hE0 ((fieldNNN_formatNNN 0x0 nnn).symm.trans (congrArg fieldNNN h))
  have hret : formatNNN 0x0 nnn ≠ 0x00EE#16 := fun h => hEE ((fieldNNN_formatNNN 0x0 nnn).symm.trans (congrArg fieldNNN h))
  rw [decodeFamily0, if_neg hcls, if_neg hret, fieldNNN_formatNNN]

theorem decodeWord_encode {i : Instr} (hwf : i.wellFormed = true) : decodeWord (encode i) = .ok i := by
  cases i with
  | cls => rfl
  | ret => rfl
  | sys nnn =>
    obtain ⟨hE0, hEE⟩ : nnn ≠ 0x0E0#12 ∧ nnn ≠ 0x0EE#12 := by simpa [Instr.wellFormed] using hwf
    have hop : (fieldOp (formatNNN 0x0 nnn)).toNat = 0x0 := by rw [fieldOp_formatNNN]; rfl
    rw [encode, decodeWord, hop]
    exact congrArg Except.ok (decodeFamily0_formatNNN hE0 hEE)
  | ldReg | orReg | andReg | xorReg | addReg | subReg | shr | subnReg | shl => simp [encode, decodeWord, decodeFamily8]
  | skp | sknp => simp [encode, decodeWord, decodeFamilyE]
  | readDelay | waitKey | writeDelay | writeSound | addI | ldFont | bcd | storeRegs | loadRegs =>
    simp [encode, decodeWord, decodeFamilyF]
  | _ => simp [encode, decodeWord]

/-! ### Encode after decode -/

theorem encode_decodeFamily0 {w : Word} (hop : fieldOp w = 0x0) :
    encode (decodeFamily0 w) = w ∧ (decodeFamily0 w).wellFormed = true := by
  unfold decodeFamily0
  split_ifs with hcls hret
  · exact ⟨hcls.symm, rfl⟩
  · exact ⟨hret.symm, rfl⟩
  · have hw : formatNNN 0x0 (fieldNNN w) = w := formatNNN_of_fieldOp hop
    have hE0 : fieldNNN w ≠ 0x0E0#12 := fun h => hcls (by rw [← hw, h]; rfl)
    have hEE : fieldNNN w ≠ 0x0EE#12 := fun h => hret (by rw [← hw, h]; rfl)
    exact ⟨hw, by simp [Instr.wellFormed, hE0, hEE]⟩

theorem encode_of_decodeFamily8 {w : Word} {i : Instr} (hop : fieldOp w = 0x8) (h : decodeFamily8 w = .ok i) :
    encode i = w ∧ i.wellFormed = true := by
  unfold decodeFamily8 at h
  split at h <;> cases h <;> exact ⟨formatXYN_of_fields hop (BitVec.eq_of_toNat_eq (by assumption)), rfl⟩

theorem encode_of_decodeFamilyE {w : Word} {i : Instr} (hop : fieldOp w = 0xE) (h : decodeFamilyE w = .ok i) :
    encode i = w ∧ i.wellFormed = true := by
  unfold decodeFamilyE at h
  split_ifs at h <;> cases h <;> exact ⟨formatXNN_of_fields hop (by assumption), rfl⟩

theorem encode_of_decodeFamilyF {w : Word} {i : Instr} (hop : fieldOp w = 0xF) (h : decodeFamilyF w = .ok i) :
    encode i = w ∧ i.wellFormed = true := by
  unfold decodeFamilyF at h
  split_ifs at h <;> cases h <;> exact ⟨formatXNN_of_fields hop (by assumption), rfl⟩

/-- How the decoder goes, by family (R74): four families look further, and the others have one instruction each. -/
theorem decodeWord_cases (w : Word) :
    (fieldOp w = 0x0 ∧ decodeWord w = .ok (decodeFamily0 w)) ∨ (fieldOp w = 0x8 ∧ decodeWord w = decodeFamily8 w) ∨
      (fieldOp w = 0xE ∧ decodeWord w = decodeFamilyE w) ∨ (fieldOp w = 0xF ∧ decodeWord w = decodeFamilyF w) ∨
      ∃ i, decodeWord w = .ok i ∧ encode i = w ∧ i.wellFormed = true := by
  generalize hd : decodeWord w = d
  unfold decodeWord at hd
  split at hd <;> subst hd
  case h_1 hop => exact .inl ⟨BitVec.eq_of_toNat_eq hop, rfl⟩
  case h_9 hop => exact .inr (.inl ⟨BitVec.eq_of_toNat_eq hop, rfl⟩)
  case h_15 hop => exact .inr (.inr (.inl ⟨BitVec.eq_of_toNat_eq hop, rfl⟩))
  case h_16 =>
    have hop : (fieldOp w).toNat = 0xF := by
      have := (fieldOp w).isLt
      grind
    exact .inr (.inr (.inr (.inl ⟨BitVec.eq_of_toNat_eq hop, rfl⟩)))
  all_goals refine .inr (.inr (.inr (.inr ⟨_, rfl, ?_, rfl⟩)))
  case h_2 hop | h_3 hop | h_11 hop | h_12 hop => exact formatNNN_of_fieldOp (BitVec.eq_of_toNat_eq hop)
  case h_4 hop | h_5 hop | h_7 hop | h_8 hop | h_13 hop => exact formatXNN_of_fieldOp (BitVec.eq_of_toNat_eq hop)
  case h_6 hop | h_10 hop | h_14 hop => exact formatXYN_of_fieldOp (BitVec.eq_of_toNat_eq hop)

theorem encode_of_decodeWord {w : Word} {i : Instr} (h : decodeWord w = .ok i) :
    encode i = w ∧ i.wellFormed = true := by
  rcases decodeWord_cases w with ⟨hop, hd⟩ | ⟨hop, hd⟩ | ⟨hop, hd⟩ | ⟨hop, hd⟩ | ⟨j, hd, hj⟩ <;> rw [hd] at h
  · cases h
    exact encode_decodeFamily0 hop
  · exact encode_of_decodeFamily8 hop h
  · exact encode_of_decodeFamilyE hop h
  · exact encode_of_decodeFamilyF hop h
  · cases h
    exact hj

/-- The decoder reads from a word the one well-formed instruction that encodes to it. -/
theorem decodeWord_eq_ok_iff {w : Word} {i : Instr} : decodeWord w = .ok i ↔ encode i = w ∧ i.wellFormed = true := by
  refine ⟨encode_of_decodeWord, ?_⟩
  rintro ⟨rfl, hwf⟩
  exact decodeWord_encode hwf

/-! ### The words that are refused (30_encoding R76, R77, R78) -/

theorem decodeFamily8_error_iff (w : Word) :
    (∃ e, decodeFamily8 w = .error e) ↔ fieldN w ∈ ([0x8, 0x9, 0xA, 0xB, 0xC, 0xD, 0xF] : List Nibble) := by
  unfold decodeFamily8
  generalize fieldN w = n
  obtain ⟨k, hk⟩ := n
  interval_cases k <;> simp

theorem decodeFamilyE_error_iff (w : Word) :
    (∃ e, decodeFamilyE w = .error e) ↔ fieldNN w ∉ ([0x9E, 0xA1] : List Byte) := by
  unfold decodeFamilyE
  split_ifs <;> simp_all

theorem decodeFamilyF_error_iff (w : Word) :
    (∃ e, decodeFamilyF w = .error e) ↔
      fieldNN w ∉ ([0x07, 0x0A, 0x15, 0x18, 0x1E, 0x29, 0x33, 0x55, 0x65] : List Byte) := by
  unfold decodeFamilyF
  split_ifs <;> simp_all

theorem decodeWord_of_family8 {w : Word} (hop : fieldOp w = 0x8) : decodeWord w = decodeFamily8 w := by
  rw [decodeWord, hop]; rfl

theorem decodeWord_of_familyE {w : Word} (hop : fieldOp w = 0xE) : decodeWord w = decodeFamilyE w := by
  rw [decodeWord, hop]; rfl

theorem decodeWord_of_familyF {w : Word} (hop : fieldOp w = 0xF) : decodeWord w = decodeFamilyF w := by
  rw [decodeWord, hop]; rfl

/-- Only three families refuse a word (30_encoding R80). -/
theorem decodeWord_error_iff (w : Word) :
    (∃ e, decodeWord w = .error e) ↔
      (fieldOp w = 0x8 ∧ fieldN w ∈ ([0x8, 0x9, 0xA, 0xB, 0xC, 0xD, 0xF] : List Nibble)) ∨
      (fieldOp w = 0xE ∧ fieldNN w ∉ ([0x9E, 0xA1] : List Byte)) ∨
      (fieldOp w = 0xF ∧
        fieldNN w ∉ ([0x07, 0x0A, 0x15, 0x18, 0x1E, 0x29, 0x33, 0x55, 0x65] : List Byte)) := by
  constructor
  · rintro ⟨e, h⟩
    rcases decodeWord_cases w with ⟨-, hd⟩ | ⟨hop, hd⟩ | ⟨hop, hd⟩ | ⟨hop, hd⟩ | ⟨i, hd, -⟩ <;> rw [hd] at h
    · cases h
    · exact .inl ⟨hop, (decodeFamily8_error_iff w).mp ⟨e, h⟩⟩
    · exact .inr (.inl ⟨hop, (decodeFamilyE_error_iff w).mp ⟨e, h⟩⟩)
    · exact .inr (.inr ⟨hop, (decodeFamilyF_error_iff w).mp ⟨e, h⟩⟩)
    · cases h
  · rintro (⟨hop, hn⟩ | ⟨hop, hnn⟩ | ⟨hop, hnn⟩)
    · rw [decodeWord_of_family8 hop]; exact (decodeFamily8_error_iff w).mpr hn
    · rw [decodeWord_of_familyE hop]; exact (decodeFamilyE_error_iff w).mpr hnn
    · rw [decodeWord_of_familyF hop]; exact (decodeFamilyF_error_iff w).mpr hnn

theorem decodeWord_sys_iff (w : Word) :
    (∃ nnn, decodeWord w = .ok (.sys nnn)) ↔ fieldOp w = 0x0 ∧ w ≠ 0x00E0 ∧ w ≠ 0x00EE := by
  constructor
  · rintro ⟨nnn, h⟩
    have hne : ∀ i, decodeWord w = .ok i → i = .sys nnn := fun i hi => Except.ok.inj (hi.symm.trans h)
    refine ⟨?_, ?_, ?_⟩
    · rw [← (encode_of_decodeWord h).1]
      exact fieldOp_formatNNN 0x0 nnn
    · rintro rfl
      cases hne .cls rfl
    · rintro rfl
      cases hne .ret rfl
  · rintro ⟨hop, hcls, hret⟩
    refine ⟨fieldNNN w, ?_⟩
    rw [decodeWord, hop]
    exact congrArg Except.ok ((if_neg hcls).trans (if_neg hret))

theorem recognised_eq_false_iff (w : Word) :
    Machine.recognised w = false ↔ (∃ nnn, decodeWord w = .ok (.sys nnn)) ∨ ∃ e, decodeWord w = .error e := by
  unfold Machine.recognised
  cases decodeWord w with
  | error e => simp
  | ok i => cases i <;> simp

/-! ### The opcode map in first-match order (30_encoding R84, R85) -/

/-- The rows above the SYS row. -/
def specificRows : List OpcodeRow := opcodeRowsLow ++ opcodeRowsFamily8 ++ opcodeRowsMid ++ opcodeRowsFamilyF

theorem opcodeRows_eq : opcodeRows = specificRows ++ [opcodeRowSys] := rfl

theorem selects_iff (r : OpcodeRow) (w : Word) : r.selects w = true ↔ w &&& r.mask = r.pattern := beq_iff_eq

/-- Two rows that one word selects agree on the bits that both compare. -/
theorem patterns_agree {r q : OpcodeRow} {w : Word} (hr : r.selects w = true) (hq : q.selects w = true) :
    r.pattern &&& q.mask = q.pattern &&& r.mask := by
  rw [selects_iff] at hr hq
  rw [← hr, ← hq, BitVec.and_assoc, BitVec.and_assoc, BitVec.and_comm r.mask]

theorem specificRows_disagree : ∀ r ∈ specificRows, ∀ q ∈ specificRows,
    r.pattern &&& q.mask = q.pattern &&& r.mask → r.mnemonic = q.mnemonic := by decide

/-- At most one row above SYS is selected. -/
theorem specificRow_unique {r q : OpcodeRow} {w : Word} (hr : r ∈ specificRows) (hq : q ∈ specificRows)
    (hrw : r.selects w = true) (hqw : q.selects w = true) : r.mnemonic = q.mnemonic :=
  specificRows_disagree r hr q hq (patterns_agree hrw hqw)

/-- The rows above SYS that share a word with it are those of CLS and RET. -/
theorem specificRows_beside_sys : ∀ r ∈ specificRows, r.pattern &&& opcodeRowSys.mask = opcodeRowSys.pattern &&& r.mask →
    r.mask = 0xFFFF ∧ (r.pattern = 0x00E0 ∨ r.pattern = 0x00EE) := by decide

theorem selectsItsRow : ∀ i, Laws.SelectsItsRow.Statement i
  | .cls => Laws.SelectsItsRow.cls
  | .ret => Laws.SelectsItsRow.ret
  | .jp nnn => Laws.SelectsItsRow.jp nnn
  | .call nnn => Laws.SelectsItsRow.call nnn
  | .seImm x nn => Laws.SelectsItsRow.seImm x nn
  | .sneImm x nn => Laws.SelectsItsRow.sneImm x nn
  | .seReg x y n => Laws.SelectsItsRow.seReg x y n
  | .ldImm x nn => Laws.SelectsItsRow.ldImm x nn
  | .addImm x nn => Laws.SelectsItsRow.addImm x nn
  | .ldReg x y => Laws.SelectsItsRow.ldReg x y
  | .orReg x y => Laws.SelectsItsRow.orReg x y
  | .andReg x y => Laws.SelectsItsRow.andReg x y
  | .xorReg x y => Laws.SelectsItsRow.xorReg x y
  | .addReg x y => Laws.SelectsItsRow.addReg x y
  | .subReg x y => Laws.SelectsItsRow.subReg x y
  | .shr x y => Laws.SelectsItsRow.shr x y
  | .subnReg x y => Laws.SelectsItsRow.subnReg x y
  | .shl x y => Laws.SelectsItsRow.shl x y
  | .sneReg x y n => Laws.SelectsItsRow.sneReg x y n
  | .ldI nnn => Laws.SelectsItsRow.ldI nnn
  | .jpV0 nnn => Laws.SelectsItsRow.jpV0 nnn
  | .rnd x nn => Laws.SelectsItsRow.rnd x nn
  | .drw x y n => Laws.SelectsItsRow.drw x y n
  | .skp x => Laws.SelectsItsRow.skp x
  | .sknp x => Laws.SelectsItsRow.sknp x
  | .readDelay x => Laws.SelectsItsRow.readDelay x
  | .waitKey x => Laws.SelectsItsRow.waitKey x
  | .writeDelay x => Laws.SelectsItsRow.writeDelay x
  | .writeSound x => Laws.SelectsItsRow.writeSound x
  | .addI x => Laws.SelectsItsRow.addI x
  | .ldFont x => Laws.SelectsItsRow.ldFont x
  | .bcd x => Laws.SelectsItsRow.bcd x
  | .storeRegs x => Laws.SelectsItsRow.storeRegs x
  | .loadRegs x => Laws.SelectsItsRow.loadRegs x
  | .sys nnn => Laws.SelectsItsRow.sys nnn

/-- The word of an instruction selects no row above SYS but its own. -/
theorem mnemonic_of_selects {i : Instr} {r : OpcodeRow} (hwf : i.wellFormed = true) (hr : r ∈ specificRows)
    (hsel : r.selects (encode i) = true) : r.mnemonic = i.mnemonic := by
  obtain ⟨q, hq, hqi, hqsel⟩ := selectsItsRow i hwf
  rw [opcodeRows_eq, List.mem_append, List.mem_singleton] at hq
  rcases hq with hq | rfl
  · exact (specificRow_unique hr hq hsel hqsel).trans hqi
  · exfalso
    obtain ⟨hmask, hpat⟩ := specificRows_beside_sys r hr (patterns_agree hsel hqsel)
    have hw : encode i = r.pattern := by
      rw [selects_iff, hmask] at hsel
      exact (BitVec.and_allOnes (x := encode i)).symm.trans hsel
    have hi : decodeWord r.pattern = .ok i := hw ▸ decodeWord_encode hwf
    rcases hpat with hpat | hpat <;> rw [hpat] at hi
    · obtain rfl : Instr.cls = i := Except.ok.inj hi
      exact absurd hqi (by decide)
    · obtain rfl : Instr.ret = i := Except.ok.inj hi
      exact absurd hqi (by decide)

/-- What each row compares: the family, and within families 0x8, 0xE and 0xF a sub-operation that has an instruction. -/
theorem opcodeRows_fields : ∀ r ∈ opcodeRows, fieldOp r.mask = 0xF ∧
    (fieldOp r.pattern = 0x8 →
      fieldN r.mask = 0xF ∧ fieldN r.pattern ∉ ([0x8, 0x9, 0xA, 0xB, 0xC, 0xD, 0xF] : List Nibble)) ∧
    (fieldOp r.pattern = 0xE → fieldNN r.mask = 0xFF ∧ fieldNN r.pattern ∈ ([0x9E, 0xA1] : List Byte)) ∧
    (fieldOp r.pattern = 0xF → fieldNN r.mask = 0xFF ∧
      fieldNN r.pattern ∈ ([0x07, 0x0A, 0x15, 0x18, 0x1E, 0x29, 0x33, 0x55, 0x65] : List Byte)) := by decide

/-- A word that selects a row is not refused. -/
theorem decodeWord_ne_error_of_selects {r : OpcodeRow} {w : Word} (hr : r ∈ opcodeRows) (hsel : r.selects w = true) :
    ¬ ∃ e, decodeWord w = .error e := by
  obtain ⟨hop, h8, hE, hF⟩ := opcodeRows_fields r hr
  rw [selects_iff] at hsel
  have hopw : fieldOp r.pattern = fieldOp w := by
    rw [← hsel, fieldOp, BitVec.extractLsb'_and]
    exact (congrArg (fieldOp w &&& ·) hop).trans BitVec.and_allOnes
  have hN (h : fieldN r.mask = 0xF) : fieldN r.pattern = fieldN w := by
    rw [← hsel, fieldN, BitVec.extractLsb'_and]
    exact (congrArg (fieldN w &&& ·) h).trans BitVec.and_allOnes
  have hNN (h : fieldNN r.mask = 0xFF) : fieldNN r.pattern = fieldNN w := by
    rw [← hsel, fieldNN, BitVec.extractLsb'_and]
    exact (congrArg (fieldNN w &&& ·) h).trans BitVec.and_allOnes
  rw [decodeWord_error_iff]
  rintro (⟨hw, hn⟩ | ⟨hw, hnn⟩ | ⟨hw, hnn⟩)
  · obtain ⟨hmask, hpat⟩ := h8 (hopw.trans hw)
    exact hpat (hN hmask ▸ hn)
  · obtain ⟨hmask, hpat⟩ := hE (hopw.trans hw)
    exact hnn (hNN hmask ▸ hpat)
  · obtain ⟨hmask, hpat⟩ := hF (hopw.trans hw)
    exact hnn (hNN hmask ▸ hpat)

/-! ### The statements -/

/-- Settles O1. -/
theorem decodingAnEncodedInstructionGivesItBack : Obligations.DecodingAnEncodedInstructionGivesItBack :=
  fun _ => decodeWord_encode

/-- Settles O2. -/
theorem encodingADecodedWordGivesItBack : Obligations.EncodingADecodedWordGivesItBack :=
  fun _ _ => encode_of_decodeWord

/-- Settles O3: the rows above SYS exclude each other, so the first that a word selects is its own. -/
theorem decoderIsTheOpcodeMapInFirstMatchOrder : Obligations.DecoderIsTheOpcodeMapInFirstMatchOrder := by
  refine fun w => ⟨fun i h => ?_, fun e h => ?_⟩
  · obtain ⟨rfl, hwf⟩ := encode_of_decodeWord h
    rw [opcodeRows_eq, List.find?_append]
    cases hfind : specificRows.find? (fun r => r.selects (encode i)) with
    | some r =>
      exact ⟨r, rfl, mnemonic_of_selects hwf (List.mem_of_find?_eq_some hfind)
        (List.find?_some (p := fun r : OpcodeRow => r.selects (encode i)) hfind)⟩
    | none =>
      obtain ⟨q, hq, hqi, hqsel⟩ := selectsItsRow i hwf
      rw [opcodeRows_eq, List.mem_append, List.mem_singleton] at hq
      rcases hq with hq | rfl
      · exact absurd hqsel (List.find?_eq_none.mp hfind q hq)
      · exact ⟨opcodeRowSys, by simp [hqsel], hqi⟩
  · exact List.find?_eq_none.mpr fun r hr hsel => decodeWord_ne_error_of_selects hr hsel ⟨e, h⟩

/-- Settles O4. -/
theorem unrecognisedWordsAreExactlyTheUnusedSubcodes : Obligations.UnrecognisedWordsAreExactlyTheUnusedSubcodes := by
  intro w
  rw [recognised_eq_false_iff, decodeWord_sys_iff, decodeWord_error_iff]

/-- Settles O5: each word is read by evaluating the decoder. -/
theorem writtenWordsDecode : Obligations.WrittenWordsDecode := by
  unfold Obligations.WrittenWordsDecode
  decide

end Sys2Proof

/-! PROOFS. What a claim about one instruction is made of: faults with their codes, frames, flags in numbers. -/

namespace Sys2Proof.Machine

/-! ### Frames -/

theorem OnlyChanges.mono {W W' : Part → Prop} {s t : State} (h : OnlyChanges W s t) (hW : ∀ p, W p → W' p) :
    OnlyChanges W' s t :=
  fun p hp => h p fun hw => hp (hW p hw)

theorem Part.same_refl (s : State) (p : Part) : p.same s s := by
  cases p <;> rfl

theorem Part.same_trans {s u t : State} {p : Part} (h1 : p.same s u) (h2 : p.same u t) : p.same s t := by
  cases p <;> exact Eq.trans h2 h1

theorem OnlyChanges.trans {W : Part → Prop} {s u t : State} (h1 : OnlyChanges W s u) (h2 : OnlyChanges W u t) :
    OnlyChanges W s t :=
  fun p hp => Part.same_trans (h1 p hp) (h2 p hp)

/-- What holds of some next state that a result answers holds of the one it answers. -/
theorem of_next {P : State → Prop} {r : Result} {t : State} (h : ∃ u, r = .next u ∧ P u) (ht : r = .next t) : P t := by
  obtain ⟨u, hu, hP⟩ := h
  obtain rfl : u = t := Host.Outcome.next.inj (hu.symm.trans ht)
  exact hP

/-! ### Faults -/

/-- A raised fault as the claims say it: what `FaultsFrom` says, and the cause's code (60_exceptions R203, R211). -/
theorem raise_spec (s : State) (r : Raised) :
    ∃ t, (.next (s.raise r) : Result) = .next t ∧ FaultsFrom r.cause s t ∧ t.faultCode = r.cause.code :=
  ⟨_, rfl, faultsFrom_raise s r, rfl⟩

/-- A fault leaves every part alone but the latch and the outputs. -/
theorem FaultsFrom.same {c : FaultCause} {s t : State} {p : Part} (h : FaultsFrom c s t)
    (hp : ¬ faultParts p := by simp [faultParts]) : p.same s t := by
  obtain ⟨-, -, -, hframe⟩ := h
  exact hframe p hp

/-! ### Flags -/

theorem toNat_flagByte (b : Bool) : (flagByte b).toNat = if b then 1 else 0 := by
  cases b <;> rfl

theorem toNat_carryFlag (a b : Byte) : (carryFlag a b).toNat = if a.toNat + b.toNat > 255 then 1 else 0 := by
  simp [carryFlag, toNat_flagByte]

theorem toNat_notBorrowFlag (p q : Byte) : (notBorrowFlag p q).toNat = if p.toNat < q.toNat then 0 else 1 := by
  by_cases h : p.toNat < q.toNat <;> simp [notBorrowFlag, toNat_flagByte, h]

theorem toNat_shiftRightFlag (a : Byte) : (shiftRightFlag a).toNat = a.toNat % 2 := by
  revert a; decide

theorem toNat_shiftLeftFlag (a : Byte) : (shiftLeftFlag a).toNat = a.toNat / 128 := by
  revert a; decide

theorem toNat_indexFlag (t : Nat) : (indexFlag t).toNat = if t > 0xFFF then 1 else 0 := by
  simp [indexFlag, toNat_flagByte]

end Sys2Proof.Machine

/-! PROOFS. Control flow: the subroutine call and return, and the skips on two registers (41_control_flow R110, R112,
R115, R116). -/

namespace Sys2Proof.Machine

/-! ### What the instructions mean -/

theorem exec_ret_of_pos {s : State} (h : 0 < s.sp.val) : exec .ret s = .next (s.pop.setPc (s.top h + 2)) := dif_pos h

theorem exec_ret_of_empty {s : State} (h : ¬ 0 < s.sp.val) : exec .ret s = .next (s.raise (.stackUnderflow s.pc)) :=
  dif_neg h

theorem exec_call_of_room {s : State} (nnn : Addr12) (h : s.sp.val < 16) :
    exec (.call nnn) s = .next ((s.push s.pc h).setPc (zextAddr nnn)) := dif_pos h

theorem exec_call_of_full {s : State} (nnn : Addr12) (h : ¬ s.sp.val < 16) :
    exec (.call nnn) s = .next (s.raise (.stackOverflow s.pc)) := dif_neg h

theorem exec_seReg (x y : Reg) (n : Nibble) (s : State) :
    exec (.seReg x y n) s = .next (s.skipIf (s.reg x == s.reg y)) := rfl

theorem exec_sneReg (x y : Reg) (n : Nibble) (s : State) :
    exec (.sneReg x y n) s = .next (s.skipIf (s.reg x != s.reg y)) := rfl

/-! ### Frames of the stack -/

theorem onlyChanges_pop_setPc (s : State) (w : Word) :
    OnlyChanges (fun p => p = .sp ∨ p = .pc) s (s.pop.setPc w) := by
  intro p hp
  obtain ⟨hsp, hpc⟩ := not_or.mp hp
  cases p with
  | sp => exact absurd rfl hsp
  | pc => exact absurd rfl hpc
  | _ => rfl

theorem onlyChanges_push_setPc (s : State) (v w : Word) (h : s.sp.val < 16) :
    OnlyChanges (fun p => p = .stackSlot ⟨s.sp.val, h⟩ ∨ p = .sp ∨ p = .pc) s ((s.push v h).setPc w) := by
  intro p hp
  obtain ⟨hslot, hrest⟩ := not_or.mp hp
  obtain ⟨hsp, hpc⟩ := not_or.mp hrest
  cases p with
  | stackSlot k =>
    have hk : s.sp.val ≠ k.val := fun heq => hslot (congrArg Part.stackSlot (Fin.ext heq.symm))
    exact Vector.getElem_set_ne h k.isLt hk
  | sp => exact absurd rfl hsp
  | pc => exact absurd rfl hpc
  | _ => rfl

/-! ### The statements -/

/-- Settles O34: a stack that is not empty is popped, an empty one raises. -/
theorem returnPopsTheStack : Obligations.ReturnPopsTheStack := by
  refine fun s => ⟨fun h => ?_, fun h => ?_⟩
  · exact ⟨_, exec_ret_of_pos h, rfl, BitVec.toNat_add .., onlyChanges_pop_setPc s _⟩
  · rw [exec_ret_of_empty (by omega)]
    exact raise_spec s _

/-- Settles O35: the slot written is the one sp counted. -/
theorem callPushesItsOwnAddress : Obligations.CallPushesItsOwnAddress := by
  refine fun s nnn => ⟨fun h => ?_, fun h => ?_⟩
  · exact ⟨_, exec_call_of_room nnn h, Vector.getElem_set_self .., rfl, toNat_zextAddr nnn,
      onlyChanges_push_setPc s s.pc (zextAddr nnn) h⟩
  · rw [exec_call_of_full nnn (by omega)]
    exact raise_spec s _

/-- Settles O36: the slot that RET reads is the one CALL wrote, since the count is one more than CALL found. -/
theorem returnComesBackAfterTheCall : Obligations.ReturnComesBackAfterTheCall := by
  intro s t u nnn hroom hcall husp hustack
  obtain ⟨hslot, htsp, -⟩ := of_next ((callPushesItsOwnAddress s nnn).1 hroom) hcall
  have hsp : u.sp.val = s.sp.val + 1 := by rw [husp, htsp]
  obtain ⟨v, hret, hvsp, hvpc, -⟩ := (returnPopsTheStack u).1 (by omega)
  have htop : u.stack[u.sp.val - 1]'(by omega) = s.pc := by
    simp only [hustack, hsp, Nat.add_sub_cancel, hslot]
  refine ⟨v, hret, ?_, Fin.ext (by omega)⟩
  rw [hvpc, htop]

/-- Settles O40: both are `skipIf`, on the test and on its negation. -/
theorem skipsCompareTwoRegisters : Obligations.SkipsCompareTwoRegisters := by
  intro s x y n
  exact ⟨⟨_, exec_seReg x y n s, skipIf_spec s beq_iff_eq⟩, ⟨_, exec_sneReg x y n s, skipIf_spec s bne_iff_ne⟩⟩

end Sys2Proof.Machine

/-! PROOFS. Register arithmetic and logic (42_alu R132 to R140). -/

namespace Sys2Proof.Machine

/-! ### What the instructions mean -/

theorem exec_ldReg (x y : Reg) (s : State) : exec (.ldReg x y) s = writeResult x (s.reg y) s := rfl

theorem exec_orReg (x y : Reg) (s : State) : exec (.orReg x y) s = writeResult x (s.reg x ||| s.reg y) s := rfl

theorem exec_andReg (x y : Reg) (s : State) : exec (.andReg x y) s = writeResult x (s.reg x &&& s.reg y) s := rfl

theorem exec_xorReg (x y : Reg) (s : State) : exec (.xorReg x y) s = writeResult x (s.reg x ^^^ s.reg y) s := rfl

theorem exec_addReg (x y : Reg) (s : State) :
    exec (.addReg x y) s = writeResultAndFlag x (s.reg x + s.reg y) (carryFlag (s.reg x) (s.reg y)) s := rfl

theorem exec_subReg (x y : Reg) (s : State) :
    exec (.subReg x y) s = writeResultAndFlag x (s.reg x - s.reg y) (notBorrowFlag (s.reg x) (s.reg y)) s := rfl

theorem exec_subnReg (x y : Reg) (s : State) :
    exec (.subnReg x y) s = writeResultAndFlag x (s.reg y - s.reg x) (notBorrowFlag (s.reg y) (s.reg x)) s := rfl

theorem exec_shr (x y : Reg) (s : State) :
    exec (.shr x y) s = writeResultAndFlag x (s.reg x >>> 1) (shiftRightFlag (s.reg x)) s := rfl

theorem exec_shl (x y : Reg) (s : State) :
    exec (.shl x y) s = writeResultAndFlag x (s.reg x <<< 1) (shiftLeftFlag (s.reg x)) s := rfl

/-! ### Writing a result, without and with a flag -/

/-- A result written without a flag, said by any fact about its value. -/
theorem writeResult_of {P : Byte → Prop} {x : Reg} {b : Byte} {s : State} (hP : P b) :
    ∃ t, writeResult x b s = .next t ∧ Advances s t ∧ OnlyChanges (fun p => p = .reg x ∨ p = .pc) s t ∧ P (t.reg x) := by
  obtain ⟨t, hexec, rfl, hpc, hframe⟩ := writeResult_spec x b s
  exact ⟨t, hexec, hpc, hframe, hP⟩

theorem onlyChanges_setReg_setFlag_advance (s : State) (x : Reg) (b f : Byte) :
    OnlyChanges (fun p => p = .reg x ∨ p = .reg regF ∨ p = .pc) s ((s.setReg x b).setFlag f).advance := by
  intro p hp
  obtain ⟨hx, hrest⟩ := not_or.mp hp
  obtain ⟨hF, hpc⟩ := not_or.mp hrest
  cases p with
  | reg k =>
    have hk : k ≠ x := fun h => hx (congrArg Part.reg h)
    have hkF : k ≠ regF := fun h => hF (congrArg Part.reg h)
    simp [Part.same, hk, hkF]
  | pc => exact absurd rfl hpc
  | _ => rfl

/-- A result and a flag written, said in numbers; the flag is written last (10_state R23). -/
theorem writeResultAndFlag_spec {x : Reg} {b f : Byte} {s : State} {vb vf : Nat} (hb : b.toNat = vb) (hf : f.toNat = vf) :
    ∃ t, writeResultAndFlag x b f s = .next t ∧ Advances s t ∧ (x ≠ regF → (t.reg x).toNat = vb) ∧
      (t.reg regF).toNat = vf ∧ OnlyChanges (fun p => p = .reg x ∨ p = .reg regF ∨ p = .pc) s t := by
  refine ⟨_, rfl, advances_advance rfl, fun hx => ?_, ?_, onlyChanges_setReg_setFlag_advance s x b f⟩
  · simp [hx, hb]
  · simp [hf]

/-! ### The statements -/

/-- Settles O42: each writes one result and no flag. -/
theorem copyAndBitwiseOperationsWriteVX : Obligations.CopyAndBitwiseOperationsWriteVX := by
  intro s x y
  rw [exec_ldReg, exec_orReg, exec_andReg, exec_xorReg]
  exact ⟨writeResult_spec x (s.reg y) s,
    writeResult_of (P := fun b => ∀ k, b.getLsbD k = ((s.reg x).getLsbD k || (s.reg y).getLsbD k))
      fun _ => BitVec.getLsbD_or,
    writeResult_of (P := fun b => ∀ k, b.getLsbD k = ((s.reg x).getLsbD k && (s.reg y).getLsbD k))
      fun _ => BitVec.getLsbD_and,
    writeResult_of (P := fun b => ∀ k, b.getLsbD k = ((s.reg x).getLsbD k ^^ (s.reg y).getLsbD k))
      fun _ => BitVec.getLsbD_xor⟩

/-- Settles O43. -/
theorem addWritesSumAndCarry : Obligations.AddWritesSumAndCarry := by
  intro s x y
  rw [exec_addReg]
  exact writeResultAndFlag_spec (BitVec.toNat_add ..) (toNat_carryFlag ..)

theorem toNat_sub_byte (a b : Byte) : (a - b).toNat = (256 + a.toNat - b.toNat) % 256 := by
  rw [BitVec.toNat_sub]
  omega

/-- Settles O44. -/
theorem subtractionsWriteDifferenceAndNotBorrow : Obligations.SubtractionsWriteDifferenceAndNotBorrow := by
  intro s x y
  rw [exec_subReg, exec_subnReg]
  exact ⟨writeResultAndFlag_spec (toNat_sub_byte ..) (toNat_notBorrowFlag ..),
    writeResultAndFlag_spec (toNat_sub_byte ..) (toNat_notBorrowFlag ..)⟩

/-- Settles O45: a shift by one halves or doubles, and the flag is the bit that does not fit. -/
theorem shiftsMoveOneBitAndKeepItInVF : Obligations.ShiftsMoveOneBitAndKeepItInVF := by
  intro s x y
  rw [exec_shr, exec_shl]
  have hshr : (s.reg x >>> 1).toNat = (s.reg x).toNat / 2 := by rw [BitVec.toNat_ushiftRight, Nat.shiftRight_one]
  have hshl : (s.reg x <<< 1).toNat = (s.reg x).toNat * 2 % 256 := by
    rw [BitVec.toNat_shiftLeft, Nat.shiftLeft_eq]
  exact ⟨writeResultAndFlag_spec hshr (toNat_shiftRightFlag ..), writeResultAndFlag_spec hshl (toNat_shiftLeftFlag ..)⟩

end Sys2Proof.Machine

/-! PROOFS. Index register and memory (43_index_memory R151 to R155), and the checked store (20_memory R56). -/

namespace Sys2Proof.Machine

/-! ### What the instructions mean -/

theorem exec_ldFont (x : Reg) (s : State) :
    exec (.ldFont x) s = .next (s.setI (BitVec.ofNat 16 ((s.reg x).toNat * 5))).advance := rfl

theorem exec_addI (x : Reg) (s : State) :
    exec (.addI x) s = .next ((s.setI (BitVec.ofNat 16 (s.I.toNat + (s.reg x).toNat))).setFlag
      (indexFlag (s.I.toNat + (s.reg x).toNat))).advance := rfl

theorem exec_bcd_of_ok {x : Reg} {s : State} {m : Memory}
    (h : memWriteBytes s.mem (s.ea 0) (bcdDigits (s.reg x)) = .ok m) : exec (.bcd x) s = .next (s.setMem m).advance := by
  simp only [exec, execBcd, h]

theorem exec_bcd_of_error {x : Reg} {s : State} {r : Raised}
    (h : memWriteBytes s.mem (s.ea 0) (bcdDigits (s.reg x)) = .error r) : exec (.bcd x) s = .next (s.raise r) := by
  simp only [exec, execBcd, h]

theorem exec_storeRegs_of_ok {x : Reg} {s : State} {m : Memory}
    (h : memWriteBytes s.mem (s.ea 0) (s.regsUpTo x) = .ok m) :
    exec (.storeRegs x) s = .next ((s.setMem m).setI (BitVec.ofNat 16 (s.ea (x.val + 1)))).advance := by
  simp only [exec, execStoreRegs, h]

theorem exec_storeRegs_of_error {x : Reg} {s : State} {r : Raised}
    (h : memWriteBytes s.mem (s.ea 0) (s.regsUpTo x) = .error r) : exec (.storeRegs x) s = .next (s.raise r) := by
  simp only [exec, execStoreRegs, h]

theorem exec_loadRegs_of_ok {x : Reg} {s : State} {bs : List Byte}
    (h : memReadBytes s.mem (s.ea 0) (x.val + 1) = .ok bs) :
    exec (.loadRegs x) s = .next ((s.setRegs bs).setI (BitVec.ofNat 16 (s.ea (x.val + 1)))).advance := by
  simp only [exec, execLoadRegs, h]

theorem exec_loadRegs_of_error {x : Reg} {s : State} {r : Raised}
    (h : memReadBytes s.mem (s.ea 0) (x.val + 1) = .error r) : exec (.loadRegs x) s = .next (s.raise r) := by
  simp only [exec, execLoadRegs, h]

/-! ### Addresses and the bytes stored -/

theorem State.ea_eq_add (s : State) (k : Nat) : s.ea k = s.ea 0 + k := rfl

/-- I past the last byte of a block that lies in memory fits in 16 bits. -/
theorem toNat_ofNat_ea {s : State} {k : Nat} (h : s.ea k ≤ 0xFFF) :
    (BitVec.ofNat 16 (s.ea (k + 1))).toNat = s.I.toNat + k + 1 := by
  rw [State.ea] at h
  rw [BitVec.toNat_ofNat, State.ea]
  omega

theorem length_bcdDigits (a : Byte) : (bcdDigits a).length = 3 := rfl

theorem regsUpTo_ne_nil (s : State) (x : Reg) : s.regsUpTo x ≠ [] :=
  List.ne_nil_of_length_pos (by rw [State.length_regsUpTo]; omega)

theorem toNat_digit {n : Nat} (h : n < 256) : (BitVec.ofNat 8 n).toNat = n := by
  rw [BitVec.toNat_ofNat]
  exact Nat.mod_eq_of_lt h

theorem toNat_wordOfBytes (hi lo : Byte) : (wordOfBytes hi lo).toNat = hi.toNat * 256 + lo.toNat := by
  show (hi ++ lo).toNat = _
  rw [BitVec.toNat_append, ← Nat.shiftLeft_add_eq_or_of_lt lo.isLt, Nat.shiftLeft_eq]

theorem getD_map_range (f : Nat → Byte) (n k : Nat) (d : Byte) :
    ((List.range n).map f).getD k d = if k < n then f k else d := by
  by_cases hk : k < n <;> simp [List.getD, hk]

/-- A completed write of rising bytes, byte by byte: each lands at its place and every other address reads as before. -/
theorem memWriteBytes_spec {m : Memory} {a : Nat} {bs : List Byte} (hlo : 0x200 ≤ a) (hhi : a + bs.length ≤ 0x1000) :
    ∃ m', memWriteBytes m a bs = .ok m' ∧ (∀ k b, bs[k]? = some b → m'.read (a + k) = b) ∧
      (∀ a', (∀ k < bs.length, a' ≠ a + k) → m'.read a' = m.read a') := by
  obtain ⟨m', hok, hread, -⟩ := memWriteBytes_ok m a bs (.inr ⟨hlo, hhi⟩)
  refine ⟨m', hok, fun k b hb => ?_, fun a' ha' => ?_⟩
  · obtain ⟨hk, rfl⟩ := List.getElem?_eq_some_iff.mp hb
    rw [hread, dif_pos ⟨by omega, by omega⟩]
    simp only [Nat.add_sub_cancel_left]
  · have hout : ¬ (a ≤ a' ∧ a' < a + bs.length) := fun h => ha' (a' - a) (by omega) (by omega)
    rw [hread, dif_neg hout]

/-! ### Frames -/

theorem onlyChanges_setI_setFlag_advance (s : State) (w : Word) (f : Byte) :
    OnlyChanges (fun p => p = .I ∨ p = .reg regF ∨ p = .pc) s ((s.setI w).setFlag f).advance := by
  intro p hp
  obtain ⟨hI, hrest⟩ := not_or.mp hp
  obtain ⟨hF, hpc⟩ := not_or.mp hrest
  cases p with
  | reg k =>
    have hk : k ≠ regF := fun h => hF (congrArg Part.reg h)
    simp [Part.same, hk]
  | I => exact absurd rfl hI
  | pc => exact absurd rfl hpc
  | _ => rfl

theorem onlyChanges_setMem {W : Nat → Prop} {s : State} {m : Memory} (hm : ∀ a, ¬ W a → m.read a = s.mem.read a) :
    OnlyChanges (fun p => ∃ a, W a ∧ p = .byte a) s (s.setMem m) := by
  intro p hp
  cases p with
  | byte a => exact hm a fun ha => hp ⟨a, ha, rfl⟩
  | _ => rfl

theorem onlyChanges_setRegs {W : Reg → Prop} {s : State} {bs : List Byte}
    (hbs : ∀ k : Reg, ¬ W k → bs.getD k.val (s.reg k) = s.reg k) :
    OnlyChanges (fun p => ∃ k, W k ∧ p = .reg k) s (s.setRegs bs) := by
  intro p hp
  cases p with
  | reg k => exact (State.reg_setRegs s bs k).trans (hbs k fun hk => hp ⟨k, hk, rfl⟩)
  | _ => rfl

theorem onlyChanges_advance (s : State) : OnlyChanges (fun p => p = .pc) s s.advance := onlyChanges_setPc s _

/-! ### The statements -/

/-- Settles O31: the range check comes first, then the protection check, then the store. -/
theorem memWriteChecksAndStoresOneByte : Obligations.MemWriteChecksAndStoresOneByte := by
  refine fun m addr v => ⟨fun h => ?_, fun h => ?_, fun hlo hhi => ?_⟩
  · rw [memWrite, if_pos h]
  · rw [memWrite, if_neg (by omega), if_pos h]
  · rw [memWrite, if_neg (by omega), if_neg (by omega)]
    exact ⟨_, rfl, Memory.read_write_eq m addr v⟩

/-- Settles O47: five times a byte fits in 16 bits. -/
theorem fontAddressIsFiveTimesVX : Obligations.FontAddressIsFiveTimesVX := by
  intro s x
  have hI : (BitVec.ofNat 16 ((s.reg x).toNat * 5)).toNat = (s.reg x).toNat * 5 := by
    rw [BitVec.toNat_ofNat]
    omega
  exact ⟨_, exec_ldFont x s, hI, advances_advance rfl, onlyChanges_setI_advance s _⟩

/-- Settles O48. -/
theorem indexAddWritesSumAndFlag : Obligations.IndexAddWritesSumAndFlag := by
  intro s x
  refine ⟨_, exec_addI x s, advances_advance rfl, BitVec.toNat_ofNat .., ?_, onlyChanges_setI_setFlag_advance s _ _⟩
  simp [toNat_indexFlag]

/-- Settles O49: three bytes are written where they fit; the first offending address decides the fault. -/
theorem bcdStoresThreeDigitsOrFaults : Obligations.BcdStoresThreeDigitsOrFaults := by
  refine fun s x => ⟨fun hlo hhi => ?_, fun hhi => ?_, fun hlo => ?_⟩
  · rw [State.ea_eq_add] at hhi
    obtain ⟨m, hok, hin, hout⟩ := memWriteBytes_spec (m := s.mem) (bs := bcdDigits (s.reg x)) hlo (by
      rw [length_bcdDigits]; omega)
    have h0 : (m.read (s.ea 0)).toNat = (s.reg x).toNat / 100 := by
      rw [show m.read (s.ea 0) = _ from hin 0 _ rfl, toNat_digit (by omega)]
    have h1 : (m.read (s.ea 1)).toNat = (s.reg x).toNat / 10 % 10 := by
      rw [show m.read (s.ea 1) = _ from hin 1 _ rfl, toNat_digit (by omega)]
    have h2 : (m.read (s.ea 2)).toNat = (s.reg x).toNat % 10 := by
      rw [show m.read (s.ea 2) = _ from hin 2 _ rfl, toNat_digit (by omega)]
    have hmem : OnlyChanges (fun p => ∃ a, (a = s.ea 0 ∨ a = s.ea 1 ∨ a = s.ea 2) ∧ p = .byte a) s (s.setMem m) := by
      refine onlyChanges_setMem fun a ha => hout a fun k hk hak => ha ?_
      rw [length_bcdDigits] at hk
      interval_cases k
      · exact .inl hak
      · exact .inr (.inl hak)
      · exact .inr (.inr hak)
    refine ⟨_, exec_bcd_of_ok hok, advances_advance rfl, h0, h1, h2, (hmem.mono ?_).trans ((onlyChanges_advance _).mono ?_)⟩
    · rintro p ⟨a, rfl | rfl | rfl, rfl⟩ <;> simp
    · rintro p rfl; simp
  · rw [State.ea_eq_add] at hhi
    rw [exec_bcd_of_error (memWriteBytes_range _ _ _ (by simp [bcdDigits]) (by omega) (by rw [length_bcdDigits]; omega))]
    exact raise_spec s _
  · rw [exec_bcd_of_error (memWriteBytes_protected _ _ _ (by simp [bcdDigits]) hlo)]
    exact raise_spec s _

/-- Settles O50: the bytes written where they fit are V0 to VX; the first offending address decides the fault. -/
theorem blockStoreWritesV0ToVXOrFaults : Obligations.BlockStoreWritesV0ToVXOrFaults := by
  refine fun s x => ⟨fun hlo hhi => ?_, fun hhi => ?_, fun hlo => ?_⟩
  · have hend := hhi
    rw [State.ea_eq_add] at hend
    obtain ⟨m, hok, hin, hout⟩ := memWriteBytes_spec (m := s.mem) (bs := s.regsUpTo x) hlo (by
      rw [State.length_regsUpTo]; omega)
    have hstored (k : Reg) (hk : k ≤ x) : m.read (s.ea k.val) = s.reg k := hin k.val _ (s.getElem?_regsUpTo x k hk)
    have hmem : OnlyChanges (fun p => ∃ a, (∃ k : Reg, k ≤ x ∧ a = s.ea k.val) ∧ p = .byte a) s (s.setMem m) := by
      refine onlyChanges_setMem fun a ha => hout a fun k hk hak => ha ?_
      rw [State.length_regsUpTo] at hk
      exact ⟨⟨k, by omega⟩, Fin.le_def.mpr (by simp only; omega), hak⟩
    refine ⟨_, exec_storeRegs_of_ok hok, advances_advance rfl, toNat_ofNat_ea hhi, hstored,
      (hmem.mono ?_).trans ((onlyChanges_setI_advance _ _).mono ?_)⟩
    · rintro p ⟨a, ⟨k, hk, rfl⟩, rfl⟩
      exact .inl ⟨k, hk, rfl⟩
    · exact fun p => .inr
  · rw [State.ea_eq_add] at hhi
    rw [exec_storeRegs_of_error (memWriteBytes_range _ _ _ (regsUpTo_ne_nil s x) (by omega)
      (by rw [State.length_regsUpTo]; omega))]
    exact raise_spec s _
  · rw [exec_storeRegs_of_error (memWriteBytes_protected _ _ _ (regsUpTo_ne_nil s x) hlo)]
    exact raise_spec s _

/-- Settles O51: the bytes read are those at I onward, and they land in V0 to VX alone. -/
theorem blockLoadReadsV0ToVXOrFaults : Obligations.BlockLoadReadsV0ToVXOrFaults := by
  refine fun s x => ⟨fun hhi => ?_, fun hhi => ?_⟩
  · have hend := hhi
    rw [State.ea_eq_add] at hend
    have hok := memReadBytes_ok s.mem (s.ea 0) (x.val + 1) (.inr (by omega))
    refine ⟨_, exec_loadRegs_of_ok hok, advances_advance rfl, toNat_ofNat_ea hhi, fun k hk => ?_,
      ((onlyChanges_setRegs (W := (· ≤ x)) fun k hk => ?_).mono fun p => .inl).trans
        ((onlyChanges_setI_advance _ _).mono fun p => .inr)⟩
    · rw [Fin.le_def] at hk
      rw [State.reg_advance, State.reg_setI, State.reg_setRegs, getD_map_range, if_pos (by omega)]
      rfl
    · rw [Fin.le_def] at hk
      rw [getD_map_range, if_neg (by omega)]
  · rw [State.ea_eq_add] at hhi
    rw [exec_loadRegs_of_error (memReadBytes_error s.mem (s.ea 0) (x.val + 1) (by omega))]
    exact raise_spec s _

/-- Settles O33: both addresses of the fetch hold bytes that the store left there. -/
theorem storedBytesAreFetchedAsTheyStand : Obligations.StoredBytesAreFetchedAsTheyStand := by
  intro s t x k j hs hexec ht hkj hj u hmem hpc
  obtain ⟨hok, hrange, hprot⟩ := blockStoreWritesV0ToVXOrFaults s x
  have hhi : s.ea x.val ≤ 0xFFF := by
    by_contra h
    obtain ⟨⟨hfault, -⟩, -⟩ := of_next (hrange (by omega)) hexec
    simp [ht] at hfault
  have hlo : 0x200 ≤ s.ea 0 := by
    by_contra h
    obtain ⟨⟨hfault, -⟩, -⟩ := of_next (hprot (by omega)) hexec
    simp [ht] at hfault
  obtain ⟨-, -, hstored, -⟩ := of_next (hok hlo hhi) hexec
  have hnext : s.ea k.val + 1 = s.ea j.val := by rw [State.ea, State.ea, ← hkj]; rfl
  have hkx : k ≤ x := Fin.le_def.mpr (by rw [Fin.le_def] at hj; omega)
  rw [State.wordAtPc, hmem, hpc, hnext, hstored k hkx, hstored j hj, toNat_wordOfBytes]

end Sys2Proof.Machine

/-! PROOFS. The sprite draw (44_display R171 to R174). -/

namespace Sys2Proof.Machine

/-! ### What the draw means -/

/-- The positions of the set bits of the sprite `n` rows high at I, drawn at (VX, VY). -/
def State.spriteAt (s : State) (x y : Reg) (n : Nibble) : List Pixel :=
  spritePixels (s.reg x).toNat (s.reg y).toNat ((List.range n.toNat).map fun k => s.mem.read (s.ea k))

theorem exec_drw_of_ok {s : State} {x y : Reg} {n : Nibble} (h : n.toNat = 0 ∨ s.ea (n.toNat - 1) ≤ 0xFFF) :
    exec (.drw x y n) s =
      .next ((s.setFb (drawPixels s.fb (s.spriteAt x y n)).1).setFlag
        (collisionFlag (drawPixels s.fb (s.spriteAt x y n)).2)).advance := by
  have hread := memReadBytes_ok s.mem (s.ea 0) n.toNat (by rw [State.ea_eq_add] at h; omega)
  simp only [exec, execDrw, hread]
  rfl

theorem exec_drw_of_error {s : State} {x y : Reg} {n : Nibble} (h0 : n.toNat ≠ 0) (h : s.ea (n.toNat - 1) > 0xFFF) :
    exec (.drw x y n) s = .next (s.raise (.memReadOutOfRange (max (s.ea 0) 0x1000))) := by
  have hread := memReadBytes_error s.mem (s.ea 0) n.toNat (by rw [State.ea_eq_add] at h; omega)
  simp only [exec, execDrw, hread]

/-! ### The sprite's pixels -/

/-- The list of positions that is drawn is the set the claims speak of. -/
theorem mem_spriteAt {s : State} {x y : Reg} {n : Nibble} {q : Pixel} :
    q ∈ s.spriteAt x y n ↔ SpriteCovers s x y n q := by
  rw [State.spriteAt, mem_spritePixels, SpriteCovers]
  constructor
  · rintro ⟨r, hr, c, hc, hbit, rfl⟩
    rw [List.length_map, List.length_range] at hr
    exact ⟨r, hr, c, hc, by simpa using hbit, rfl, rfl⟩
  · rintro ⟨r, hr, c, hc, hbit, hx, hy⟩
    exact ⟨r, by simpa using hr, c, hc, by simpa using hbit, Prod.ext (Fin.ext hx) (Fin.ext hy)⟩

/-- A sprite has at most 15 rows, so the screen's 32 rows keep them apart. -/
theorem nodup_spriteAt (s : State) (x y : Reg) (n : Nibble) : (s.spriteAt x y n).Nodup := by
  apply nodup_spritePixels
  rw [List.length_map, List.length_range]
  omega

theorem pixel_drawn (s : State) (x y : Reg) (n : Nibble) (q : Pixel) :
    pixel (drawPixels s.fb (s.spriteAt x y n)).1 q = (pixel s.fb q ^^ decide (q ∈ s.spriteAt x y n)) :=
  pixel_drawPixels s.fb _ (nodup_spriteAt s x y n) q

/-- The flag is 1 exactly when some covered pixel was set (44_display R171). -/
theorem toNat_collisionFlag_drawn (s : State) (x y : Reg) (n : Nibble) :
    (collisionFlag (drawPixels s.fb (s.spriteAt x y n)).2).toNat = 1 ↔ ∃ q, SpriteCovers s x y n q ∧ pixel s.fb q = true := by
  have hflag (b : Bool) : (collisionFlag b).toNat = 1 ↔ b = true := by cases b <;> decide
  rw [hflag, drawPixels_hit s.fb _ (nodup_spriteAt s x y n)]
  simp only [mem_spriteAt]

theorem toNat_collisionFlag_le (b : Bool) : (collisionFlag b).toNat ≤ 1 := by cases b <;> decide

theorem onlyChanges_draw {W : Pixel → Prop} {s : State} {f : Framebuffer} (v : Byte)
    (hf : ∀ q, ¬ W q → pixel f q = pixel s.fb q) :
    OnlyChanges (fun p => (∃ q, W q ∧ p = .pixel q) ∨ p = .reg regF ∨ p = .drawFlag ∨ p = .pc) s
      ((s.setFb f).setFlag v).advance := by
  intro p hp
  obtain ⟨hpixel, hrest⟩ := not_or.mp hp
  obtain ⟨hF, hrest⟩ := not_or.mp hrest
  obtain ⟨hdraw, hpc⟩ := not_or.mp hrest
  cases p with
  | reg k =>
    have hk : k ≠ regF := fun h => hF (congrArg Part.reg h)
    simp [Part.same, hk]
  | pixel q => exact hf q fun hq => hpixel ⟨q, hq, rfl⟩
  | drawFlag => exact absurd rfl hdraw
  | pc => exact absurd rfl hpc
  | _ => rfl

/-! ### The statements -/

/-- Settles O53: the positions drawn are distinct, so each is toggled once. -/
theorem drawTogglesTheSpriteAndReportsCollision : Obligations.DrawTogglesTheSpriteAndReportsCollision := by
  refine fun s x y n => ⟨fun h => ?_, fun h0 h => ?_⟩
  · have hflag := toNat_collisionFlag_drawn s x y n
    have hle := toNat_collisionFlag_le (drawPixels s.fb (s.spriteAt x y n)).2
    refine ⟨_, exec_drw_of_ok h, advances_advance rfl, rfl, fun q hq => ?_, fun hq => ?_, fun hq => ?_,
      onlyChanges_draw _ fun q hq => ?_⟩
    · exact (pixel_drawn s x y n q).trans (by simp [mem_spriteAt, hq])
    · simpa using hflag.mpr hq
    · have hne := mt hflag.mp hq
      rw [State.reg_advance, State.reg_setFlag, if_pos rfl]
      omega
    · exact (pixel_drawn s x y n q).trans (by simp [mem_spriteAt, hq])
  · rw [exec_drw_of_error h0 h]
    exact raise_spec s _

/-- Settles O54: the second draw toggles the same positions, so every pixel is toggled twice or not at all. -/
theorem drawingTwiceRestoresTheFramebuffer : Obligations.DrawingTwiceRestoresTheFramebuffer := by
  intro s t u x y n h hexec hfb hmem hI hx hy
  rw [exec_drw_of_ok h] at hexec
  obtain rfl := Host.Outcome.next.inj hexec
  have hea (k : Nat) : u.ea k = s.ea k := by rw [State.ea, State.ea, hI]
  have hsprite : u.spriteAt x y n = s.spriteAt x y n := by simp only [State.spriteAt, hx, hy, hmem, hea]
  have hcovers (q : Pixel) : SpriteCovers u x y n q ↔ SpriteCovers s x y n q := by
    rw [← mem_spriteAt, ← mem_spriteAt, hsprite]
  have hufb (q : Pixel) : pixel u.fb q = (pixel s.fb q ^^ decide (q ∈ s.spriteAt x y n)) := by
    rw [hfb]
    exact pixel_drawn s x y n q
  refine ⟨_, exec_drw_of_ok (by rwa [hea]), framebuffer_ext fun q => ?_, ?_⟩
  · refine (pixel_drawn u x y n q).trans ?_
    rw [hufb, hsprite, Bool.xor_assoc, Bool.xor_self, Bool.xor_false]
  · rw [State.reg_advance, State.reg_setFlag, if_pos rfl, toNat_collisionFlag_drawn]
    refine exists_congr fun q => ?_
    rw [hcovers]
    refine and_congr_right fun hq => ?_
    rw [hufb, decide_eq_true (mem_spriteAt.mpr hq), Bool.xor_true, Bool.not_eq_true']

end Sys2Proof.Machine

/-! PROOFS. Keys, timers, the random byte and SYS (45_keys_timers_random R180 to R186, 30_encoding R85). -/

namespace Sys2Proof.Machine

/-! ### What the instructions mean -/

theorem exec_rnd (x : Reg) (nn : Byte) (s : State) :
    exec (.rnd x nn) s = .next ((s.countDraw).setReg x (Config.rnd s.draws &&& nn)).advance := rfl

theorem exec_skp (x : Reg) (s : State) : exec (.skp x) s = skipOnKey x true s := rfl

theorem exec_sknp (x : Reg) (s : State) : exec (.sknp x) s = skipOnKey x false s := rfl

theorem exec_readDelay (x : Reg) (s : State) : exec (.readDelay x) s = writeResult x s.DT s := rfl

theorem exec_writeDelay (x : Reg) (s : State) : exec (.writeDelay x) s = .next (s.setDT (s.reg x)).advance := rfl

theorem exec_writeSound (x : Reg) (s : State) : exec (.writeSound x) s = .next (s.setST (s.reg x)).advance := rfl

theorem exec_waitKey_of_none {x : Reg} {s : State} (h : s.keys = 0) : exec (.waitKey x) s = .next s := by
  have hnone : chooseKey (Config.keyPick s.draws) s.keys = none := h ▸ chooseKey_zero _
  simp only [exec, execWaitKey, hnone]

theorem exec_waitKey_of_some {x k : Reg} {s : State} (h : chooseKey (Config.keyPick s.draws) s.keys = some k) :
    exec (.waitKey x) s = .next ((s.countDraw).setReg x (BitVec.ofNat 8 k.val)).advance := by
  simp only [exec, execWaitKey, h]

theorem exec_sys (nnn : Addr12) (s : State) :
    exec (.sys nnn) s = .next (s.reportDecodeError (encode (.sys nnn))) := rfl

/-! ### Skips on a key -/

theorem skipOnKey_of_key {s : State} {x : Reg} (wanted : Bool) (h : (s.reg x).toNat ≤ 15) :
    ∃ t, skipOnKey x wanted s = .next t ∧ OnlyChanges (fun p => p = .pc) s t ∧
      t.pc.toNat = (s.pc.toNat + if s.keys.getLsbD (s.reg x).toNat = wanted then 4 else 2) % 65536 :=
  ⟨_, if_neg (by omega), skipIf_spec s beq_iff_eq⟩

theorem skipOnKey_of_no_key {s : State} {x : Reg} (wanted : Bool) (h : (s.reg x).toNat > 15) :
    ∃ t, skipOnKey x wanted s = .next t ∧ FaultsFrom .keyIndexOutOfRange s t ∧ t.faultCode = 8 := by
  rw [skipOnKey, if_pos h]
  exact raise_spec s _

/-! ### Keys -/

theorem exists_chooseKey {keys : BitVec 16} (pick : Nat) (h : keys ≠ 0) : ∃ k, chooseKey pick keys = some k := by
  cases hc : chooseKey pick keys with
  | none => exact absurd (keys_eq_zero_of_chooseKey_none hc) h
  | some k => exact ⟨k, rfl⟩

theorem toNat_keyByte (k : Reg) : (BitVec.ofNat 8 k.val).toNat = k.val := toNat_digit (by omega)

/-! ### Frames -/

theorem onlyChanges_countDraw_setReg_advance (s : State) (x : Reg) (b : Byte) :
    OnlyChanges (fun p => p = .reg x ∨ p = .pc ∨ p = .draws) s ((s.countDraw).setReg x b).advance := by
  intro p hp
  obtain ⟨hx, hrest⟩ := not_or.mp hp
  obtain ⟨hpc, hdraws⟩ := not_or.mp hrest
  cases p with
  | reg k =>
    have hk : k ≠ x := fun h => hx (congrArg Part.reg h)
    simp [Part.same, hk]
  | pc => exact absurd rfl hpc
  | draws => exact absurd rfl hdraws
  | _ => rfl

theorem onlyChanges_setDT_advance (s : State) (b : Byte) :
    OnlyChanges (fun p => p = .DT ∨ p = .pc) s (s.setDT b).advance := by
  intro p hp
  obtain ⟨hDT, hpc⟩ := not_or.mp hp
  cases p with
  | DT => exact absurd rfl hDT
  | pc => exact absurd rfl hpc
  | _ => rfl

theorem onlyChanges_setST_advance (s : State) (b : Byte) :
    OnlyChanges (fun p => p = .ST ∨ p = .pc) s (s.setST b).advance := by
  intro p hp
  obtain ⟨hST, hpc⟩ := not_or.mp hp
  cases p with
  | ST => exact absurd rfl hST
  | pc => exact absurd rfl hpc
  | _ => rfl

theorem onlyChanges_reportDecodeError (s : State) (w : Word) :
    OnlyChanges (fun p => p = .report) s (s.reportDecodeError w) := by
  intro p hp
  cases p with
  | report => exact absurd rfl hp
  | _ => rfl

/-! ### The statements -/

/-- Settles O55. -/
theorem randomByteIsMasked : Obligations.RandomByteIsMasked := by
  intro s x nn
  have hbit (k : Nat) : (((s.countDraw).setReg x (Config.rnd s.draws &&& nn)).advance.reg x).getLsbD k =
      ((Config.rnd s.draws).getLsbD k && nn.getLsbD k) := by simp
  refine ⟨_, exec_rnd x nn s, advances_advance rfl, hbit, fun k hk => ?_, rfl,
    onlyChanges_countDraw_setReg_advance s x _⟩
  rw [hbit, hk, Bool.and_false]

/-- Settles O56: both are `skipOnKey`, on a key down and on a key up. -/
theorem keySkipsTestTheKeyVXNames : Obligations.KeySkipsTestTheKeyVXNames := by
  intro s x
  rw [exec_skp, exec_sknp]
  exact ⟨fun h => ⟨skipOnKey_of_key true h, skipOnKey_of_key false h⟩,
    fun h => ⟨skipOnKey_of_no_key true h, skipOnKey_of_no_key false h⟩⟩

/-- Settles O57. -/
theorem timerMovesCopyOneByte : Obligations.TimerMovesCopyOneByte := by
  intro s x
  rw [exec_readDelay]
  exact ⟨writeResult_spec x s.DT s,
    ⟨_, exec_writeDelay x s, rfl, advances_advance rfl, onlyChanges_setDT_advance s _⟩,
    ⟨_, exec_writeSound x s, rfl, advances_advance rfl, onlyChanges_setST_advance s _⟩⟩

/-- Settles O58: a key is chosen when some key is down, and the chosen one is down. -/
theorem keyWaitDeliversAKeyThatIsDown : Obligations.KeyWaitDeliversAKeyThatIsDown := by
  refine fun s x => ⟨exec_waitKey_of_none, fun hkeys => ?_⟩
  obtain ⟨k, hk⟩ := exists_chooseKey (Config.keyPick s.draws) hkeys
  have hdown : s.keys.getLsbD k.val = true := keyDown_of_chooseKey hk
  have hreg : (((s.countDraw).setReg x (BitVec.ofNat 8 k.val)).advance.reg x).toNat = k.val := by
    rw [State.reg_advance, State.reg_setReg, if_pos rfl, toNat_keyByte]
  refine ⟨_, exec_waitKey_of_some hk, advances_advance rfl, ?_, ?_, fun j hj => ?_,
    onlyChanges_countDraw_setReg_advance s x _⟩ <;> rw [hreg]
  · omega
  · exact hdown
  · exact hj k.val hdown

/-- Settles O59. -/
theorem sysReportsItsOwnWord : Obligations.SysReportsItsOwnWord := by
  intro s nnn
  have hword : (encode (.sys nnn)).toNat = nnn.toNat := by
    rw [encode, toNat_formatNNN]
    exact Nat.zero_add _
  exact ⟨_, _, exec_sys nnn s, rfl, hword, onlyChanges_reportDecodeError s _⟩

end Sys2Proof.Machine

/-! PROOFS. What any instruction can do, read off the statements about each: which parts it may write, where it leaves pc,
and what it does to memory and to the stack (10_state R22 to R36, 40_cycle R95). -/

namespace Sys2Proof.Machine

/-! ### The parts an instruction may write -/

/-- The registers an instruction may write, VF as a flag among them. -/
def writesReg : Instr → Reg → Prop
  | .ldImm x _, k | .addImm x _, k | .rnd x _, k | .readDelay x, k | .waitKey x, k => k = x
  | .ldReg x _, k | .orReg x _, k | .andReg x _, k | .xorReg x _, k => k = x
  | .addReg x _, k | .subReg x _, k | .shr x _, k | .subnReg x _, k | .shl x _, k => k = x ∨ k = regF
  | .drw _ _ _, k | .addI _, k => k = regF
  | .loadRegs x, k => k ≤ x
  | .cls, _ | .ret, _ | .jp _, _ | .call _, _ | .seImm _ _, _ | .sneImm _ _, _ | .seReg _ _ _, _ => False
  | .sneReg _ _ _, _ | .ldI _, _ | .jpV0 _, _ | .skp _, _ | .sknp _, _ | .writeDelay _, _ => False
  | .writeSound _, _ | .ldFont _, _ | .bcd _, _ | .storeRegs _, _ | .sys _, _ => False

/-- The parts an instruction that does not fault may write, each by the instructions the spec names for it. -/
def MayWrite (i : Instr) : Part → Prop
  | .reg k => writesReg i k
  | .I => (∃ n, i = .ldI n) ∨ ∃ x, i = .addI x ∨ i = .ldFont x ∨ i = .storeRegs x ∨ i = .loadRegs x
  | .pc => True
  | .stackSlot _ => ∃ n, i = .call n
  | .sp => i = .ret ∨ ∃ n, i = .call n
  | .DT => ∃ x, i = .writeDelay x
  | .ST => ∃ x, i = .writeSound x
  | .pixel _ | .drawFlag => i = .cls ∨ ∃ x y n, i = .drw x y n
  | .byte _ => ∃ x, i = .bcd x ∨ i = .storeRegs x
  | .report => ∃ n, i = .sys n
  | .draws => (∃ x nn, i = .rnd x nn) ∨ ∃ x, i = .waitKey x
  | .keys | .fault | .beep => False

/-- Where an instruction that does not fault may leave pc: at most 4 further, at the target of a jump, or past the call
that the top of the stack records (41_control_flow R110 to R117). -/
def PcMoves (s t : State) : Prop :=
  (∃ d ≤ 4, t.pc.toNat = (s.pc.toNat + d) % 65536) ∨ t.pc.toNat ≤ 0x10FE ∨
    ∃ h : 0 < s.sp.val, t.pc.toNat = ((s.stack[s.sp.val - 1]'(by omega)).toNat + 2) % 65536

/-- What a faulting instruction answers, or what a completed one may have done. -/
def FaultsOrWrites (i : Instr) (s t : State) : Prop :=
  (mayFault i = true ∧ ∃ c, FaultsFrom c s t) ∨ (OnlyChanges (MayWrite i) s t ∧ PcMoves s t)

section
variable {i : Instr} {s t : State}

theorem pcMoves_of_advances (h : Advances s t) : PcMoves s t := .inl ⟨2, by omega, h⟩

theorem pcMoves_of_same (h : t.pc = s.pc) : PcMoves s t := .inl ⟨0, by omega, by rw [h]; omega⟩

theorem faultsOrWrites_of_fault {c : FaultCause} (hi : mayFault i = true) (h : FaultsFrom c s t) : FaultsOrWrites i s t :=
  .inl ⟨hi, c, h⟩

theorem faultsOrWrites_of_frame {W : Part → Prop} (hframe : OnlyChanges W s t) (hpc : PcMoves s t)
    (hW : ∀ p, W p → MayWrite i p) : FaultsOrWrites i s t :=
  .inr ⟨hframe.mono hW, hpc⟩

theorem faultsOrWrites_of_jump (hframe : OnlyChanges (fun p => p = .pc) s t) (hpc : t.pc.toNat ≤ 0x10FE) :
    FaultsOrWrites i s t :=
  faultsOrWrites_of_frame hframe (.inr (.inl hpc)) (by rintro p rfl; trivial)

theorem faultsOrWrites_of_skip {P : Prop} [Decidable P] (hframe : OnlyChanges (fun p => p = .pc) s t)
    (hpc : t.pc.toNat = (s.pc.toNat + if P then 4 else 2) % 65536) : FaultsOrWrites i s t :=
  faultsOrWrites_of_frame hframe (.inl ⟨if P then 4 else 2, by split <;> omega, hpc⟩) (by rintro p rfl; trivial)

theorem faultsOrWrites_of_result {x : Reg} (hx : writesReg i x) (hpc : Advances s t)
    (hframe : OnlyChanges (fun p => p = .reg x ∨ p = .pc) s t) : FaultsOrWrites i s t := by
  refine faultsOrWrites_of_frame hframe (pcMoves_of_advances hpc) ?_
  rintro p (rfl | rfl)
  · exact hx
  · trivial

theorem faultsOrWrites_of_result_and_flag {x : Reg} (hx : writesReg i x) (hF : writesReg i regF) (hpc : Advances s t)
    (hframe : OnlyChanges (fun p => p = .reg x ∨ p = .reg regF ∨ p = .pc) s t) : FaultsOrWrites i s t := by
  refine faultsOrWrites_of_frame hframe (pcMoves_of_advances hpc) ?_
  rintro p (rfl | rfl | rfl)
  · exact hx
  · exact hF
  · trivial

end

/-! ### One case analysis for all instructions -/

/-- Said once for every instruction, from the statement about it. -/
theorem exec_cases {i : Instr} {s t : State} (h : exec i s = .next t) : FaultsOrWrites i s t := by
  cases i with
  | cls =>
    obtain ⟨-, -, hpc, hframe⟩ := of_next (clearZeroesEveryPixel s) h
    refine faultsOrWrites_of_frame hframe (pcMoves_of_advances hpc) ?_
    rintro p (⟨q, rfl⟩ | rfl | rfl) <;> simp [MayWrite]
  | drw x y n =>
    by_cases hn : n.toNat = 0 ∨ s.ea (n.toNat - 1) ≤ 0xFFF
    · obtain ⟨hpc, -, -, -, -, hframe⟩ := of_next ((drawTogglesTheSpriteAndReportsCollision s x y n).1 hn) h
      refine faultsOrWrites_of_frame hframe (pcMoves_of_advances hpc) ?_
      rintro p (⟨q, -, rfl⟩ | rfl | rfl | rfl) <;> simp [MayWrite, writesReg]
    · obtain ⟨h0, hhi⟩ := not_or.mp hn
      exact faultsOrWrites_of_fault rfl
        (of_next ((drawTogglesTheSpriteAndReportsCollision s x y n).2 h0 (by omega)) h).1
  | ret =>
    by_cases hsp : 0 < s.sp.val
    · obtain ⟨-, hpc, hframe⟩ := of_next ((returnPopsTheStack s).1 hsp) h
      exact faultsOrWrites_of_frame hframe (.inr (.inr ⟨hsp, hpc⟩)) (by rintro p (rfl | rfl) <;> simp [MayWrite])
    · exact faultsOrWrites_of_fault rfl (of_next ((returnPopsTheStack s).2 (by omega)) h).1
  | call nnn =>
    by_cases hsp : s.sp.val < 16
    · obtain ⟨-, -, hpc, hframe⟩ := of_next ((callPushesItsOwnAddress s nnn).1 hsp) h
      exact faultsOrWrites_of_frame hframe (.inr (.inl (by omega))) (by rintro p (rfl | rfl | rfl) <;> simp [MayWrite])
    · exact faultsOrWrites_of_fault rfl (of_next ((callPushesItsOwnAddress s nnn).2 (by omega)) h).1
  | jp nnn =>
    obtain ⟨hpc, hframe⟩ := of_next (jumpSetsPc s nnn) h
    exact faultsOrWrites_of_jump hframe (by omega)
  | jpV0 nnn =>
    obtain ⟨-, hpc, hframe⟩ := of_next (jumpWithOffsetAddsV0 s nnn) h
    exact faultsOrWrites_of_jump hframe hpc
  | seImm x nn =>
    obtain ⟨hframe, hpc⟩ := of_next (skipsCompareWithAnImmediate s x nn).1 h
    exact faultsOrWrites_of_skip hframe hpc
  | sneImm x nn =>
    obtain ⟨hframe, hpc⟩ := of_next (skipsCompareWithAnImmediate s x nn).2 h
    exact faultsOrWrites_of_skip hframe hpc
  | seReg x y n =>
    obtain ⟨hframe, hpc⟩ := of_next (skipsCompareTwoRegisters s x y n).1 h
    exact faultsOrWrites_of_skip hframe hpc
  | sneReg x y n =>
    obtain ⟨hframe, hpc⟩ := of_next (skipsCompareTwoRegisters s x y n).2 h
    exact faultsOrWrites_of_skip hframe hpc
  | skp x =>
    obtain ⟨hkey, hno⟩ := keySkipsTestTheKeyVXNames s x
    by_cases hx : (s.reg x).toNat ≤ 15
    · obtain ⟨hframe, hpc⟩ := of_next (hkey hx).1 h
      exact faultsOrWrites_of_skip hframe hpc
    · exact faultsOrWrites_of_fault rfl (of_next (hno (by omega)).1 h).1
  | sknp x =>
    obtain ⟨hkey, hno⟩ := keySkipsTestTheKeyVXNames s x
    by_cases hx : (s.reg x).toNat ≤ 15
    · obtain ⟨hframe, hpc⟩ := of_next (hkey hx).2 h
      exact faultsOrWrites_of_skip hframe hpc
    · exact faultsOrWrites_of_fault rfl (of_next (hno (by omega)).2 h).1
  | ldImm x nn =>
    obtain ⟨-, hpc, hframe⟩ := of_next (immediateLoadAndAddWriteVX s x nn).1 h
    exact faultsOrWrites_of_result rfl hpc hframe
  | addImm x nn =>
    obtain ⟨-, hpc, hframe⟩ := of_next (immediateLoadAndAddWriteVX s x nn).2 h
    exact faultsOrWrites_of_result rfl hpc hframe
  | ldReg x y =>
    obtain ⟨-, hpc, hframe⟩ := of_next (copyAndBitwiseOperationsWriteVX s x y).1 h
    exact faultsOrWrites_of_result rfl hpc hframe
  | orReg x y =>
    obtain ⟨hpc, hframe, -⟩ := of_next (copyAndBitwiseOperationsWriteVX s x y).2.1 h
    exact faultsOrWrites_of_result rfl hpc hframe
  | andReg x y =>
    obtain ⟨hpc, hframe, -⟩ := of_next (copyAndBitwiseOperationsWriteVX s x y).2.2.1 h
    exact faultsOrWrites_of_result rfl hpc hframe
  | xorReg x y =>
    obtain ⟨hpc, hframe, -⟩ := of_next (copyAndBitwiseOperationsWriteVX s x y).2.2.2 h
    exact faultsOrWrites_of_result rfl hpc hframe
  | addReg x y =>
    obtain ⟨hpc, -, -, hframe⟩ := of_next (addWritesSumAndCarry s x y) h
    exact faultsOrWrites_of_result_and_flag (.inl rfl) (.inr rfl) hpc hframe
  | subReg x y =>
    obtain ⟨hpc, -, -, hframe⟩ := of_next (subtractionsWriteDifferenceAndNotBorrow s x y).1 h
    exact faultsOrWrites_of_result_and_flag (.inl rfl) (.inr rfl) hpc hframe
  | subnReg x y =>
    obtain ⟨hpc, -, -, hframe⟩ := of_next (subtractionsWriteDifferenceAndNotBorrow s x y).2 h
    exact faultsOrWrites_of_result_and_flag (.inl rfl) (.inr rfl) hpc hframe
  | shr x y =>
    obtain ⟨hpc, -, -, hframe⟩ := of_next (shiftsMoveOneBitAndKeepItInVF s x y).1 h
    exact faultsOrWrites_of_result_and_flag (.inl rfl) (.inr rfl) hpc hframe
  | shl x y =>
    obtain ⟨hpc, -, -, hframe⟩ := of_next (shiftsMoveOneBitAndKeepItInVF s x y).2 h
    exact faultsOrWrites_of_result_and_flag (.inl rfl) (.inr rfl) hpc hframe
  | readDelay x =>
    obtain ⟨-, hpc, hframe⟩ := of_next (timerMovesCopyOneByte s x).1 h
    exact faultsOrWrites_of_result rfl hpc hframe
  | writeDelay x =>
    obtain ⟨-, hpc, hframe⟩ := of_next (timerMovesCopyOneByte s x).2.1 h
    exact faultsOrWrites_of_frame hframe (pcMoves_of_advances hpc) (by rintro p (rfl | rfl) <;> simp [MayWrite])
  | writeSound x =>
    obtain ⟨-, hpc, hframe⟩ := of_next (timerMovesCopyOneByte s x).2.2 h
    exact faultsOrWrites_of_frame hframe (pcMoves_of_advances hpc) (by rintro p (rfl | rfl) <;> simp [MayWrite])
  | rnd x nn =>
    obtain ⟨hpc, -, -, -, hframe⟩ := of_next (randomByteIsMasked s x nn) h
    refine faultsOrWrites_of_frame hframe (pcMoves_of_advances hpc) ?_
    rintro p (rfl | rfl | rfl) <;> simp [MayWrite, writesReg]
  | waitKey x =>
    by_cases hkeys : s.keys = 0
    · obtain rfl : s = t := Host.Outcome.next.inj (((keyWaitDeliversAKeyThatIsDown s x).1 hkeys).symm.trans h)
      exact .inr ⟨fun p _ => Part.same_refl s p, pcMoves_of_same rfl⟩
    · obtain ⟨hpc, -, -, -, hframe⟩ := of_next ((keyWaitDeliversAKeyThatIsDown s x).2 hkeys) h
      refine faultsOrWrites_of_frame hframe (pcMoves_of_advances hpc) ?_
      rintro p (rfl | rfl | rfl) <;> simp [MayWrite, writesReg]
  | ldI nnn =>
    obtain ⟨-, hpc, hframe⟩ := of_next (indexLoadWritesTheAddress s nnn) h
    exact faultsOrWrites_of_frame hframe (pcMoves_of_advances hpc) (by rintro p (rfl | rfl) <;> simp [MayWrite])
  | ldFont x =>
    obtain ⟨-, hpc, hframe⟩ := of_next (fontAddressIsFiveTimesVX s x) h
    exact faultsOrWrites_of_frame hframe (pcMoves_of_advances hpc) (by rintro p (rfl | rfl) <;> simp [MayWrite])
  | addI x =>
    obtain ⟨hpc, -, -, hframe⟩ := of_next (indexAddWritesSumAndFlag s x) h
    refine faultsOrWrites_of_frame hframe (pcMoves_of_advances hpc) ?_
    rintro p (rfl | rfl | rfl) <;> simp [MayWrite, writesReg]
  | bcd x =>
    obtain ⟨hok, hrange, hprot⟩ := bcdStoresThreeDigitsOrFaults s x
    by_cases hhi : s.ea 2 ≤ 0xFFF
    · by_cases hlo : 0x200 ≤ s.ea 0
      · obtain ⟨hpc, -, -, -, hframe⟩ := of_next (hok hlo hhi) h
        refine faultsOrWrites_of_frame hframe (pcMoves_of_advances hpc) ?_
        rintro p (rfl | rfl | rfl | rfl) <;> simp [MayWrite]
      · exact faultsOrWrites_of_fault rfl (of_next (hprot (by omega)) h).1
    · exact faultsOrWrites_of_fault rfl (of_next (hrange (by omega)) h).1
  | storeRegs x =>
    obtain ⟨hok, hrange, hprot⟩ := blockStoreWritesV0ToVXOrFaults s x
    by_cases hhi : s.ea x.val ≤ 0xFFF
    · by_cases hlo : 0x200 ≤ s.ea 0
      · obtain ⟨hpc, -, -, hframe⟩ := of_next (hok hlo hhi) h
        refine faultsOrWrites_of_frame hframe (pcMoves_of_advances hpc) ?_
        rintro p (⟨k, -, rfl⟩ | rfl | rfl) <;> simp [MayWrite]
      · exact faultsOrWrites_of_fault rfl (of_next (hprot (by omega)) h).1
    · exact faultsOrWrites_of_fault rfl (of_next (hrange (by omega)) h).1
  | loadRegs x =>
    obtain ⟨hok, hrange⟩ := blockLoadReadsV0ToVXOrFaults s x
    by_cases hhi : s.ea x.val ≤ 0xFFF
    · obtain ⟨hpc, -, -, hframe⟩ := of_next (hok hhi) h
      refine faultsOrWrites_of_frame hframe (pcMoves_of_advances hpc) ?_
      rintro p (⟨k, hk, rfl⟩ | rfl | rfl)
      · exact hk
      · simp [MayWrite]
      · trivial
    · exact faultsOrWrites_of_fault rfl (of_next (hrange (by omega)) h).1
  | sys nnn =>
    obtain rfl := Host.Outcome.next.inj ((exec_sys nnn s).symm.trans h)
    exact faultsOrWrites_of_frame (onlyChanges_reportDecodeError s _) (pcMoves_of_same rfl)
      (by rintro p rfl; simp [MayWrite])

/-! ### What follows for a single part -/

/-- A part that an instruction may not write, the latch and the outputs aside, is left alone, whether it faults or not. -/
theorem exec_same {i : Instr} {s t : State} {p : Part} (h : exec i s = .next t) (hp : ¬ MayWrite i p)
    (hfault : ¬ faultParts p := by simp [faultParts]) : p.same s t := by
  rcases exec_cases h with ⟨-, c, hc⟩ | ⟨hframe, -⟩
  · exact hc.same hfault
  · exact hframe p hp

theorem exec_fault {i : Instr} {s t : State} (h : exec i s = .next t) : t.fault = s.fault ∨ mayFault i = true := by
  rcases exec_cases h with ⟨hi, -⟩ | ⟨hframe, -⟩
  · exact .inr hi
  · exact .inl (hframe .fault id)

theorem exec_keys {i : Instr} {s t : State} (h : exec i s = .next t) : t.keys = s.keys :=
  exec_same h (p := .keys) id

theorem exec_DT {i : Instr} {s t : State} (h : exec i s = .next t) (hi : ∀ x, i ≠ .writeDelay x) : t.DT = s.DT :=
  exec_same h (p := .DT) (fun ⟨x, hx⟩ => hi x hx)

theorem exec_ST {i : Instr} {s t : State} (h : exec i s = .next t) (hi : ∀ x, i ≠ .writeSound x) : t.ST = s.ST :=
  exec_same h (p := .ST) (fun ⟨x, hx⟩ => hi x hx)

theorem exec_stack {i : Instr} {s t : State} (h : exec i s = .next t) (hi : ∀ n, i ≠ .call n) : t.stack = s.stack :=
  Vector.ext fun k hk => exec_same h (p := .stackSlot ⟨k, hk⟩) (fun ⟨n, hn⟩ => hi n hn)

theorem exec_sp {i : Instr} {s t : State} (h : exec i s = .next t) (hcall : ∀ n, i ≠ .call n) (hret : i ≠ .ret) :
    t.sp = s.sp :=
  exec_same h (p := .sp) (by simp [MayWrite, hcall, hret])

/-! ### Memory as a list, and the pushed slots -/

/-- The memory after an instruction is the one before, or that of a completed checked write. -/
theorem exec_mem {i : Instr} {s t : State} (h : exec i s = .next t) :
    t.mem = s.mem ∨ ∃ a bs, memWriteBytes s.mem a bs = .ok t.mem := by
  cases i with
  | bcd x | storeRegs x =>
    simp only [exec, execBcd, execStoreRegs] at h
    split at h <;> cases h
    · exact .inl rfl
    · exact .inr ⟨_, _, by assumption⟩
  | ret | call | drw | skp | sknp | waitKey | loadRegs =>
    simp only [exec, execRet, execCall, execDrw, execSkp, execSknp, skipOnKey, execWaitKey, execLoadRegs] at h
    split at h <;> cases h <;> exact .inl rfl
  | _ => cases h; exact .inl rfl

/-- A slot that is pushed after an instruction was pushed before it, or is the one that CALL wrote. -/
theorem exec_pushed {i : Instr} {s t : State} (h : exec i s = .next t) {k : Fin 16} (hk : k.val < t.sp.val) :
    (k.val < s.sp.val ∧ t.stack[k] = s.stack[k]) ∨ t.stack[k] = s.pc := by
  by_cases hcall : ∃ n, i = .call n
  · obtain ⟨n, rfl⟩ := hcall
    by_cases hsp : s.sp.val < 16
    · obtain ⟨hslot, htsp, -, hframe⟩ := of_next ((callPushesItsOwnAddress s n).1 hsp) h
      by_cases hks : k.val = s.sp.val
      · exact .inr (by simpa only [Fin.getElem_fin, hks] using hslot)
      · have hne : k ≠ ⟨s.sp.val, hsp⟩ := fun heq => hks (congrArg Fin.val heq)
        exact .inl ⟨by omega, hframe (.stackSlot k) (by simp [hne])⟩
    · have hc := (of_next ((callPushesItsOwnAddress s n).2 (by omega)) h).1
      have hsame : t.sp = s.sp := hc.same (p := .sp)
      exact .inl ⟨hsame ▸ hk, hc.same (p := .stackSlot k)⟩
  · simp only [not_exists] at hcall
    have hsp : t.sp.val ≤ s.sp.val := by
      by_cases hret : i = .ret
      · subst hret
        obtain ⟨hpop, hempty⟩ := returnPopsTheStack s
        by_cases hsp : 0 < s.sp.val
        · have := (of_next (hpop hsp) h).1
          omega
        · have hsame : t.sp = s.sp := (of_next (hempty (by omega)) h).1.same (p := .sp)
          rw [hsame]
      · rw [exec_sp h hcall hret]
    exact .inl ⟨by omega, by rw [exec_stack h hcall]⟩

/-! ### The statements -/

/-- Settles O13. -/
theorem onlyEightInstructionsFault : Obligations.OnlyEightInstructionsFault := by
  intro i s t h hi
  exact (exec_fault h).resolve_right (by simp [hi])

/-- Settles O24: CLS and a completed DRW set the flag, and no other instruction may write it. -/
theorem drawFlagIsSetByClearAndDrawAlone : Obligations.DrawFlagIsSetByClearAndDrawAlone := by
  intro i s t hs h
  by_cases hcls : i = .cls
  · subst hcls
    obtain ⟨-, hset, -⟩ := of_next (clearZeroesEveryPixel s) h
    simp [hset]
  by_cases hdrw : ∃ x y n, i = .drw x y n
  · obtain ⟨x, y, n, rfl⟩ := hdrw
    obtain ⟨hfits, hpast⟩ := drawTogglesTheSpriteAndReportsCollision s x y n
    by_cases hn : n.toNat = 0 ∨ s.ea (n.toNat - 1) ≤ 0xFFF
    · obtain ⟨-, hset, -, -, -, hframe⟩ := of_next (hfits hn) h
      have hfault : t.fault = s.fault := hframe .fault (by simp)
      simp [hset, hfault, hs]
    · obtain ⟨h0, hhi⟩ := not_or.mp hn
      have hc := (of_next (hpast h0 (by omega)) h).1
      have hsame : t.drawFlag = s.drawFlag := hc.same (p := .drawFlag)
      simp [hsame, hc.1]
  · have hsame : t.drawFlag = s.drawFlag :=
      exec_same h (p := .drawFlag) (not_or.mpr ⟨hcls, hdrw⟩)
    simp [hsame, hcls, hdrw]

theorem not_writesReg_regF {i : Instr} (hflag : writesFlag i = false) (hplain : writesVFPlainly i = false) :
    ¬ writesReg i regF := by
  cases i with
  | ldImm x | addImm x | rnd x | readDelay x | waitKey x | ldReg x | orReg x | andReg x | xorReg x =>
    have hx : x ≠ regF := by simpa [writesVFPlainly] using hplain
    exact fun heq => hx heq.symm
  | loadRegs x =>
    have hx : x ≠ regF := by simpa [writesVFPlainly] using hplain
    exact fun hle => hx (Fin.le_antisymm (Fin.le_last x) hle)
  | addReg | subReg | shr | subnReg | shl | drw | addI => cases hflag
  | _ => exact id

/-- Settles O25: the table of written registers gives the first half, the statements about the flags the second. -/
theorem vFIsWrittenOnlyByItsInstructions : Obligations.VFIsWrittenOnlyByItsInstructions := by
  refine fun i s t h => ⟨fun hflag hplain => ?_, fun hflag hs ht => ?_⟩
  · exact exec_same h (p := .reg regF) (not_writesReg_regF hflag hplain)
  cases i with
  | addReg x y =>
    obtain ⟨-, -, hF, -⟩ := of_next (addWritesSumAndCarry s x y) h
    rw [hF]; split <;> omega
  | subReg x y =>
    obtain ⟨-, -, hF, -⟩ := of_next (subtractionsWriteDifferenceAndNotBorrow s x y).1 h
    rw [hF]; split <;> omega
  | subnReg x y =>
    obtain ⟨-, -, hF, -⟩ := of_next (subtractionsWriteDifferenceAndNotBorrow s x y).2 h
    rw [hF]; split <;> omega
  | shr x y =>
    obtain ⟨-, -, hF, -⟩ := of_next (shiftsMoveOneBitAndKeepItInVF s x y).1 h
    omega
  | shl x y =>
    obtain ⟨-, -, hF, -⟩ := of_next (shiftsMoveOneBitAndKeepItInVF s x y).2 h
    omega
  | addI x =>
    obtain ⟨-, -, hF, -⟩ := of_next (indexAddWritesSumAndFlag s x) h
    rw [hF]; split <;> omega
  | drw x y n =>
    obtain ⟨hfits, hpast⟩ := drawTogglesTheSpriteAndReportsCollision s x y n
    by_cases hn : n.toNat = 0 ∨ s.ea (n.toNat - 1) ≤ 0xFFF
    · obtain ⟨-, -, -, hhit, hmiss, -⟩ := of_next (hfits hn) h
      by_cases hq : ∃ q, SpriteCovers s x y n q ∧ pixel s.fb q = true
      · rw [hhit hq]
      · rw [hmiss hq]; omega
    · obtain ⟨h0, hhi⟩ := not_or.mp hn
      obtain ⟨⟨hfault, -⟩, -⟩ := of_next (hpast h0 (by omega)) h
      simp [ht] at hfault
  | _ => cases hflag

/-- Settles O26. -/
theorem eachPartIsWrittenOnlyByItsInstructions : Obligations.EachPartIsWrittenOnlyByItsInstructions := by
  intro i s t h
  refine ⟨fun hcall hret => ⟨exec_sp h hcall hret, exec_stack h hcall⟩, exec_DT h, exec_ST h, fun hcls hdrw p => ?_,
    fun hbcd hstore a => ?_, fun hldI hI => ?_, exec_keys h⟩
  · exact exec_same h (p := .pixel p) (by simp [MayWrite, hcls, hdrw])
  · exact exec_same h (p := .byte a) (by simp [MayWrite, hbcd, hstore])
  · exact exec_same h (p := .I) (by simp [MayWrite, hldI, hI])

end Sys2Proof.Machine

/-! PROOFS. The keys and the free values matter only to the instructions that read them (40_cycle R91). -/

namespace Sys2Proof.Machine

/-- The same state with other keys and another count of free values. -/
def State.withInputs (s : State) (keys : BitVec 16) (n : Nat) : State := { s with keys := keys, draws := n }

/-- An instruction that reads neither input does the same whatever they are. -/
theorem exec_withInputs {i : Instr} {s t : State} (h : exec i s = .next t) (hkeys : readsKeys i = false)
    (hrnd : ∀ x nn, i ≠ .rnd x nn) (keys : BitVec 16) (n : Nat) :
    exec i (s.withInputs keys n) = .next (t.withInputs keys n) := by
  cases i with
  | rnd x nn => exact absurd rfl (hrnd x nn)
  | skp | sknp | waitKey => cases hkeys
  | ret =>
    by_cases hsp : 0 < s.sp.val
    · rw [exec_ret_of_pos hsp] at h
      cases h
      exact exec_ret_of_pos (s := s.withInputs keys n) hsp
    · rw [exec_ret_of_empty hsp] at h
      cases h
      exact exec_ret_of_empty (s := s.withInputs keys n) hsp
  | call nnn =>
    by_cases hsp : s.sp.val < 16
    · rw [exec_call_of_room nnn hsp] at h
      cases h
      exact exec_call_of_room (s := s.withInputs keys n) nnn hsp
    · rw [exec_call_of_full nnn hsp] at h
      cases h
      exact exec_call_of_full (s := s.withInputs keys n) nnn hsp
  | drw x y m =>
    by_cases hm : m.toNat = 0 ∨ s.ea (m.toNat - 1) ≤ 0xFFF
    · rw [exec_drw_of_ok hm] at h
      cases h
      exact exec_drw_of_ok (s := s.withInputs keys n) hm
    · obtain ⟨h0, hhi⟩ := not_or.mp hm
      rw [exec_drw_of_error h0 (by omega)] at h
      cases h
      exact exec_drw_of_error (s := s.withInputs keys n) h0 (Nat.lt_of_not_le hhi)
  | bcd x =>
    cases hm : memWriteBytes s.mem (s.ea 0) (bcdDigits (s.reg x)) with
    | ok m =>
      rw [exec_bcd_of_ok hm] at h
      cases h
      exact exec_bcd_of_ok (s := s.withInputs keys n) hm
    | error r =>
      rw [exec_bcd_of_error hm] at h
      cases h
      exact exec_bcd_of_error (s := s.withInputs keys n) hm
  | storeRegs x =>
    cases hm : memWriteBytes s.mem (s.ea 0) (s.regsUpTo x) with
    | ok m =>
      rw [exec_storeRegs_of_ok hm] at h
      cases h
      exact exec_storeRegs_of_ok (s := s.withInputs keys n) hm
    | error r =>
      rw [exec_storeRegs_of_error hm] at h
      cases h
      exact exec_storeRegs_of_error (s := s.withInputs keys n) hm
  | loadRegs x =>
    cases hm : memReadBytes s.mem (s.ea 0) (x.val + 1) with
    | ok bs =>
      rw [exec_loadRegs_of_ok hm] at h
      cases h
      exact exec_loadRegs_of_ok (s := s.withInputs keys n) hm
    | error r =>
      rw [exec_loadRegs_of_error hm] at h
      cases h
      exact exec_loadRegs_of_error (s := s.withInputs keys n) hm
  | _ => cases h; rfl

/-- The skips on a key do the same whatever the count of free values is. -/
theorem skipOnKey_withInputs {x : Reg} {wanted : Bool} {s t : State} (h : skipOnKey x wanted s = .next t) (n : Nat) :
    skipOnKey x wanted (s.withInputs s.keys n) = .next (t.withInputs s.keys n) := by
  unfold skipOnKey at h
  split at h <;> rename_i hx <;> cases h
  · exact if_pos hx
  · exact if_neg hx

/-- Settles O18: what reads neither input is one case; the skips read no free value, and CXNN reads no key. -/
theorem keysAndRandomMatterOnlyToTheirInstructions : Obligations.KeysAndRandomMatterOnlyToTheirInstructions := by
  refine fun i s t h => ⟨fun hkeys keys => ?_, fun hrnd hwait n => ?_⟩
  · by_cases hi : ∃ x nn, i = .rnd x nn
    · obtain ⟨x, nn, rfl⟩ := hi
      cases h
      rfl
    · have hrnd : ∀ x nn, i ≠ .rnd x nn := fun x nn heq => hi ⟨x, nn, heq⟩
      have hdraws : t.draws = s.draws := exec_same h (p := .draws) ?_
      · have hsame : t.setKeys keys = t.withInputs keys s.draws := by rw [← hdraws]; rfl
        rw [hsame]
        exact exec_withInputs h hkeys hrnd keys s.draws
      · rintro (⟨x, nn, heq⟩ | ⟨x, rfl⟩)
        · exact hrnd x nn heq
        · cases hkeys
  · have hsame : { t with draws := n } = t.withInputs s.keys n := by rw [← exec_keys h]; rfl
    rw [hsame]
    cases i with
    | skp x | sknp x => exact skipOnKey_withInputs h n
    | waitKey x => exact absurd rfl (hwait x)
    | rnd x nn => exact absurd rfl (hrnd x nn)
    | _ => exact exec_withInputs h rfl hrnd s.keys n

end Sys2Proof.Machine

/-! PROOFS. A whole cycle (40_cycle R90 to R102, 60_exceptions R200 to R211). -/

namespace Sys2Proof.Machine

/-! ### The end of a cycle -/

theorem finishCycle_of_early {i : Instr} {s s1 : State} (h : s1.fault ≠ none ∨ ((∃ x, i = .waitKey x) ∧ s.keys = 0)) :
    finishCycle i s.clearOutputs s1 = s1 := by
  refine if_pos (Bool.or_eq_true_iff.mpr (h.imp (fun hf => ?_) (waitsForKey_iff i s.clearOutputs).mpr))
  exact Option.isSome_iff_ne_none.mpr hf

theorem finishCycle_of_full {i : Instr} {s s1 : State} (hf : s1.fault = none)
    (hw : ¬ ((∃ x, i = .waitKey x) ∧ s.keys = 0)) : finishCycle i s.clearOutputs s1 = s1.timerStep := by
  have hwait : ¬ waitsForKey i s.clearOutputs = true := mt (waitsForKey_iff i s.clearOutputs).mp hw
  exact if_neg (by simp [hf, hwait])

/-- A cycle that runs an instruction ends with the state it left, or with the timer step on one that did not fault. -/
theorem finishCycle_cases (i : Instr) (s s1 : State) :
    finishCycle i s.clearOutputs s1 = s1 ∨ (s1.fault = none ∧ finishCycle i s.clearOutputs s1 = s1.timerStep) := by
  by_cases hearly : s1.fault ≠ none ∨ ((∃ x, i = .waitKey x) ∧ s.keys = 0)
  · exact .inl (finishCycle_of_early hearly)
  · obtain ⟨hf, hw⟩ := not_or.mp hearly
    exact .inr ⟨not_not.mp hf, finishCycle_of_full (not_not.mp hf) hw⟩

/-! ### The ways a cycle goes, each from its condition -/

theorem step_of_no_fetch {s : State} (hf : s.fault = none) (hpc : s.pc.toNat > 0xFFE) :
    step s = .next (s.clearOutputs.raise (.fetchOutOfRange s.pc)) := by
  have hfetch : fetchWord s = .error (.fetchOutOfRange s.pc) := if_pos hpc
  simp only [step_of_no_fault hf, hfetch]

theorem step_of_error {s : State} {e : DecodeRefusal} (hs : s.fetches) (hd : decodeWord s.wordAtPc = .error e) :
    step s = .next (s.clearOutputs.reportDecodeError s.wordAtPc).timerStep := by
  obtain ⟨hf, hpc⟩ := hs
  simp only [step_of_no_fault hf, fetchWord_ok hpc, hd]

theorem step_of_exec {s s1 : State} {i : Instr} (hs : s.fetches) (hd : decodeWord s.wordAtPc = .ok i)
    (he : exec i s.clearOutputs = .next s1) : step s = .next (finishCycle i s.clearOutputs s1) := by
  obtain ⟨hf, hpc⟩ := hs
  simp only [step_of_no_fault hf, fetchWord_ok hpc, hd, he]

theorem exec_next (i : Instr) (s : State) : ∃ t, exec i s = .next t := by
  obtain ⟨t, h, -⟩ := exec_raises_or_keeps i s
  exact ⟨t, h⟩

/-- SYS and an unused sub-code end a cycle alike (30_encoding R85, 60_exceptions R201). -/
theorem step_of_unrecognised {s : State} (hs : s.fetches) (hw : recognised s.wordAtPc = false) :
    step s = .next (s.clearOutputs.reportDecodeError s.wordAtPc).timerStep := by
  rcases (recognised_eq_false_iff s.wordAtPc).mp hw with ⟨nnn, hd⟩ | ⟨e, hd⟩
  · obtain ⟨hword, -⟩ := encode_of_decodeWord hd
    have hexec : exec (.sys nnn) s.clearOutputs = .next (s.clearOutputs.reportDecodeError s.wordAtPc) :=
      hword ▸ exec_sys nnn s.clearOutputs
    have hfinish := finishCycle_of_full (i := .sys nnn) (s := s) (s1 := s.clearOutputs.reportDecodeError s.wordAtPc) hs.1
      (by simp)
    rw [step_of_exec hs hd hexec, hfinish]
  · exact step_of_error hs hd

/-- A key wait with no key down only clears the outputs (45_keys_timers_random R184). -/
theorem step_of_waitKey {s : State} {x : Reg} (hs : s.fetches) (hd : decodeWord s.wordAtPc = .ok (.waitKey x))
    (hkeys : s.keys = 0) : step s = .next s.clearOutputs := by
  rw [step_of_exec hs hd (exec_waitKey_of_none hkeys), finishCycle_of_early (.inr ⟨⟨x, rfl⟩, hkeys⟩)]

/-- The outputs that a cycle clears at its start are parts that a fault writes anyway. -/
theorem faultsFrom_of_clearOutputs {c : FaultCause} {s t : State} (h : FaultsFrom c s.clearOutputs t) :
    FaultsFrom c s t := by
  obtain ⟨hfault, hbeep, hreport, hframe⟩ := h
  refine ⟨hfault, hbeep, hreport, fun p hp => Part.same_trans ?_ (hframe p hp)⟩
  cases p with
  | beep | report => exact absurd (by simp [faultParts]) hp
  | _ => rfl

theorem onlyChanges_clearOutputs (s : State) : OnlyChanges (fun p => p = .beep ∨ p = .report) s s.clearOutputs := by
  intro p hp
  cases p with
  | beep => exact absurd (.inl rfl) hp
  | report => exact absurd (.inr rfl) hp
  | _ => rfl

/-! ### The timers of a cycle -/

theorem delayWritten_of_exec {s s1 : State} {i : Instr} (hd : decodeWord s.wordAtPc = .ok i)
    (he : exec i s.clearOutputs = .next s1) : s1.DT = s.delayWritten := by
  unfold State.delayWritten
  split
  case h_1 x hx =>
    obtain rfl : i = .writeDelay x := Except.ok.inj (hd.symm.trans hx)
    exact (of_next (timerMovesCopyOneByte s.clearOutputs x).2.1 he).1
  case h_2 hne => exact exec_DT (s := s.clearOutputs) he fun x hi => hne x (hi ▸ hd)

theorem soundWritten_of_exec {s s1 : State} {i : Instr} (hd : decodeWord s.wordAtPc = .ok i)
    (he : exec i s.clearOutputs = .next s1) : s1.ST = s.soundWritten := by
  unfold State.soundWritten
  split
  case h_1 x hx =>
    obtain rfl : i = .writeSound x := Except.ok.inj (hd.symm.trans hx)
    exact (of_next (timerMovesCopyOneByte s.clearOutputs x).2.2 he).1
  case h_2 hne => exact exec_ST (s := s.clearOutputs) he fun x hi => hne x (hi ▸ hd)

theorem delayWritten_of_error {s : State} {e : DecodeRefusal} (hd : decodeWord s.wordAtPc = .error e) :
    s.delayWritten = s.DT := by simp only [State.delayWritten, hd]

theorem soundWritten_of_error {s : State} {e : DecodeRefusal} (hd : decodeWord s.wordAtPc = .error e) :
    s.soundWritten = s.ST := by simp only [State.soundWritten, hd]

theorem timerStep_spec {u : State} {dt st : Byte} (hDT : u.DT = dt) (hST : u.ST = st) :
    u.timerStep.DT.toNat = dt.toNat - 1 ∧ u.timerStep.ST.toNat = st.toNat - 1 ∧
      u.timerStep.beep = decide (st.toNat ≠ 0) := by
  subst hDT hST
  obtain ⟨h1, h2, h3, -⟩ := timersStepped_timerStep u
  exact ⟨h1, h2, h3⟩

theorem waits_iff {s : State} {i : Instr} (hd : decodeWord s.wordAtPc = .ok i) :
    s.waits ↔ (∃ x, i = .waitKey x) ∧ s.keys = 0 := by
  simp only [State.waits, hd, Except.ok.injEq]

/-- An instruction that ends its cycle early, by a fault or by waiting, leaves the timers alone and makes no sound. -/
theorem exec_early {s s1 : State} {i : Instr} (hs : s.fault = none) (he : exec i s.clearOutputs = .next s1)
    (hearly : s1.fault ≠ none ∨ ((∃ x, i = .waitKey x) ∧ s.keys = 0)) :
    s1.DT = s.DT ∧ s1.ST = s.ST ∧ s1.beep = false := by
  rcases hearly with hf | ⟨⟨x, rfl⟩, hkeys⟩
  · rcases exec_cases he with ⟨-, c, hc⟩ | ⟨hframe, -⟩
    · exact ⟨hc.same (p := .DT), hc.same (p := .ST), hc.2.1⟩
    · exact absurd ((hframe .fault id).trans hs) hf
  · obtain rfl := Host.Outcome.next.inj ((exec_waitKey_of_none (s := s.clearOutputs) hkeys).symm.trans he)
    exact ⟨rfl, rfl, rfl⟩

/-! ### The statements -/

/-- Settles O6. -/
theorem stepRunsTheDecodedInstruction : Obligations.StepRunsTheDecodedInstruction := by
  intro s t i hs hd he
  refine ⟨_, step_of_exec hs hd he, finishCycle_of_early, fun ⟨hf, hw⟩ => ?_⟩
  rw [finishCycle_of_full hf hw]
  exact timersStepped_timerStep t

/-- Settles O7: each way a cycle can go ends in a next state. -/
theorem everyCycleAnswersANextState : Obligations.EveryCycleAnswersANextState := by
  intro s
  by_cases hf : s.fault = none
  · by_cases hpc : s.pc.toNat ≤ 0xFFE
    · cases hd : decodeWord s.wordAtPc with
      | error e => exact ⟨_, step_of_error ⟨hf, hpc⟩ hd⟩
      | ok i =>
        obtain ⟨s1, he⟩ := exec_next i s.clearOutputs
        exact ⟨_, step_of_exec ⟨hf, hpc⟩ hd he⟩
    · exact ⟨_, step_of_no_fetch hf (by omega)⟩
  · exact ⟨_, step_of_fault (Option.isSome_iff_ne_none.mpr hf)⟩

/-- Settles O10. -/
theorem fetchBeyondMemoryFaults : Obligations.FetchBeyondMemoryFaults := by
  intro s hf hpc
  exact ⟨_, step_of_no_fetch hf hpc, faultsFrom_of_clearOutputs (faultsFrom_raise _ _), rfl⟩

/-- Settles O12: a fault is raised by the fetch or by the instruction, and nothing else latches one. -/
theorem faultsArePrecise : Obligations.FaultsArePrecise := by
  intro s t c hs hstep ht
  rcases step_cases hstep with ⟨hf, -⟩ | ⟨-, -, rfl⟩ | ⟨-, -, rfl⟩ | ⟨-, i, s1, -, he, rfl⟩
  · simp [hs] at hf
  · obtain rfl : FaultCause.fetchOutOfRange = c := Option.some.inj ht
    exact faultsFrom_of_clearOutputs (faultsFrom_raise _ _)
  · simp [hs] at ht
  · rcases finishCycle_cases i s s1 with hend | ⟨h1, hend⟩ <;> rw [hend] at ht ⊢
    · rcases exec_cases he with ⟨-, d, hd⟩ | ⟨hframe, -⟩
      · obtain rfl : d = c := Option.some.inj (hd.1.symm.trans ht)
        exact faultsFrom_of_clearOutputs hd
      · have hsame : s1.fault = s.fault := hframe .fault id
        simp [hsame, hs] at ht
    · simp [h1] at ht

/-- Settles O14: by the four ways a cycle can go, the last cut by whether the instruction ends it early. -/
theorem timersStepInEveryCycleButThreeKinds : Obligations.TimersStepInEveryCycleButThreeKinds := by
  intro s t hstep
  rcases step_cases hstep with ⟨hf, rfl⟩ | ⟨-, -, rfl⟩ | ⟨hs, ⟨e, hd⟩, rfl⟩ | ⟨hs, i, s1, hd, he, rfl⟩
  · exact ⟨fun _ => ⟨rfl, rfl, rfl⟩, fun ⟨hnone, _⟩ => by simp [hnone] at hf⟩
  · exact ⟨fun _ => ⟨rfl, rfl, rfl⟩, fun ⟨_, hnone, _⟩ => by simp at hnone⟩
  · refine ⟨?_, fun _ => timerStep_spec (delayWritten_of_error hd).symm (soundWritten_of_error hd).symm⟩
    rintro (h | h | ⟨⟨x, hx⟩, -⟩)
    · exact absurd hs.1 h
    · exact absurd hs.1 h
    · simp [hd] at hx
  · rw [waits_iff hd]
    by_cases hearly : s1.fault ≠ none ∨ ((∃ x, i = .waitKey x) ∧ s.keys = 0)
    · rw [finishCycle_of_early hearly]
      exact ⟨fun _ => exec_early hs.1 he hearly, fun ⟨_, hf, hw⟩ => absurd hearly (not_or.mpr ⟨not_not.mpr hf, hw⟩)⟩
    · obtain ⟨hf, hw⟩ := not_or.mp hearly
      rw [finishCycle_of_full (not_not.mp hf) hw]
      refine ⟨?_, fun _ => timerStep_spec (delayWritten_of_exec hd he) (soundWritten_of_exec hd he)⟩
      rintro (h | h | h)
      · exact absurd hs.1 h
      · exact absurd h hf
      · exact absurd h hw

end Sys2Proof.Machine

/-! PROOFS. Runs of cycles that go nowhere: a latched fault, a key wait, a DecodeError, and the end of a run (00_scope R17,
40_cycle R99, 60_exceptions R225, 70_reset R239). -/

namespace Sys2Proof.Machine

/-! ### Runs of cycles -/

theorem cycles_zero (s : State) : Cycles 0 s s := rfl

theorem cycles_succ {n : Nat} {s u t : State} (hstep : step s = .next u) (hrun : Cycles n u t) : Cycles (n + 1) s t := by
  have hcore : Sys2Proof.core.step s = .next u := hstep
  simpa only [Cycles, Host.Core.run, hcore] using hrun

/-- A cycle that leads to a state which the next one does not change decides every later state. -/
theorem cycles_of_fixed {s u : State} (hs : step s = .next u) (hu : step u = .next u) (n : Nat) : Cycles (n + 1) s u := by
  have hrun : Cycles n u u := by
    induction n with
    | zero => exact cycles_zero u
    | succ n ih => exact cycles_succ hu ih
  exact cycles_succ hs hrun

/-! ### Cycles in which only the timers run -/

/-- The parts that such a cycle writes: the timers and the outputs. -/
def idleParts (p : Part) : Prop := p = .report ∨ p = .DT ∨ p = .ST ∨ p = .beep

/-- The state after a cycle that reports `rep` and runs the timer step alone. -/
def State.idle (rep : Option Report) (s : State) : State := { s with report := rep }.timerStep

theorem onlyChanges_idle (rep : Option Report) (s : State) : OnlyChanges idleParts s (s.idle rep) := by
  intro p hp
  obtain ⟨hreport, hrest⟩ := not_or.mp hp
  obtain ⟨hDT, hrest⟩ := not_or.mp hrest
  obtain ⟨hST, hbeep⟩ := not_or.mp hrest
  cases p with
  | report => exact absurd rfl hreport
  | DT => exact absurd rfl hDT
  | ST => exact absurd rfl hST
  | beep => exact absurd rfl hbeep
  | _ => rfl

/-- What `n + 1` such cycles leave: each timer `n + 1` less, and a sound in the last exactly when the sound timer was
more than `n`. -/
theorem iterate_idle_spec (rep : Option Report) (n : Nat) (s : State) :
    ((State.idle rep)^[n + 1] s).report = rep ∧ ((State.idle rep)^[n + 1] s).DT.toNat = s.DT.toNat - (n + 1) ∧
      ((State.idle rep)^[n + 1] s).ST.toNat = s.ST.toNat - (n + 1) ∧
      ((State.idle rep)^[n + 1] s).beep = decide (n < s.ST.toNat) ∧
      OnlyChanges idleParts s ((State.idle rep)^[n + 1] s) := by
  have hDT (u : State) : (u.idle rep).DT.toNat = u.DT.toNat - 1 := toNat_timerTick u.DT
  have hST (u : State) : (u.idle rep).ST.toNat = u.ST.toNat - 1 := toNat_timerTick u.ST
  induction n generalizing s with
  | zero =>
    obtain ⟨-, -, hbeep⟩ := timerStep_spec (u := { s with report := rep }) rfl rfl
    refine ⟨rfl, hDT s, hST s, hbeep.trans ?_, onlyChanges_idle rep s⟩
    simp only [ne_eq, Nat.pos_iff_ne_zero]
  | succ n ih =>
    obtain ⟨hreport, hDTn, hSTn, hbeep, hframe⟩ := ih (s.idle rep)
    rw [Function.iterate_succ_apply]
    refine ⟨hreport, by rw [hDTn, hDT]; omega, by rw [hSTn, hST]; omega, ?_, (onlyChanges_idle rep s).trans hframe⟩
    rw [hbeep, hST, decide_eq_decide]
    omega

/-- A condition that such cycles keep, and under which every cycle is one, holds after any number of them. -/
theorem cycles_idle {P : State → Prop} {rep : Option Report} (hstep : ∀ s, P s → step s = .next (s.idle rep))
    (hkeep : ∀ s, P s → P (s.idle rep)) (n : Nat) {s : State} (hs : P s) :
    Cycles n s ((State.idle rep)^[n] s) ∧ P ((State.idle rep)^[n] s) := by
  induction n generalizing s with
  | zero => exact ⟨cycles_zero s, hs⟩
  | succ n ih =>
    rw [Function.iterate_succ_apply]
    obtain ⟨hrun, hP⟩ := ih (hkeep s hs)
    exact ⟨cycles_succ (hstep s hs) hrun, hP⟩

/-! ### The statements -/

/-- Settles O11: the first cycle clears the outputs, and the next ones find them clear. -/
theorem faultedMachineDoesNothing : Obligations.FaultedMachineDoesNothing := by
  intro s n hf
  have hlatched : s.fault.isSome = true := Option.isSome_iff_ne_none.mpr hf
  have hnext : step s.clearOutputs = .next s.clearOutputs := step_of_fault hlatched
  exact ⟨_, cycles_of_fixed (step_of_fault hlatched) hnext n, rfl, rfl, onlyChanges_clearOutputs s⟩

/-- Settles O17: the first cycle clears the outputs, and the next ones find them clear. -/
theorem keyWaitFreezesTheMachine : Obligations.KeyWaitFreezesTheMachine := by
  intro s x n hs hd hkeys
  have hnext : step s.clearOutputs = .next s.clearOutputs := step_of_waitKey (s := s.clearOutputs) hs hd hkeys
  exact ⟨_, cycles_of_fixed (step_of_waitKey hs hd hkeys) hnext n, rfl, rfl, onlyChanges_clearOutputs s⟩

/-- Settles O8. -/
theorem unrecognisedWordIsReportedAndTimersRun : Obligations.UnrecognisedWordIsReportedAndTimersRun := by
  intro s hs hw
  obtain ⟨hDT, hST, hbeep⟩ := timerStep_spec (u := s.clearOutputs.reportDecodeError s.wordAtPc) rfl rfl
  exact ⟨_, step_of_unrecognised hs hw, rfl, hs.1, hDT, hST, hbeep, onlyChanges_idle (some (.decodeError s.wordAtPc)) s⟩

/-- Settles O9: the cycle of a DecodeError leaves pc, memory and the latch, so the next one is such a cycle too. -/
theorem decodeErrorRecursForEver : Obligations.DecodeErrorRecursForEver := by
  intro s n hs hw
  obtain ⟨hrun, ⟨hfault, -⟩, -, -⟩ := cycles_idle (rep := some (.decodeError s.wordAtPc))
    (P := fun u => u.fetches ∧ u.wordAtPc = s.wordAtPc ∧ recognised u.wordAtPc = false)
    (fun u ⟨hu, hword, huw⟩ => hword ▸ step_of_unrecognised hu huw) (fun u hu => hu) (n + 1) ⟨hs, rfl, hw⟩
  obtain ⟨hreport, hDT, hST, hbeep, hframe⟩ := iterate_idle_spec (some (.decodeError s.wordAtPc)) n s
  exact ⟨_, hrun, hreport, hfault, hDT, hST, hbeep, hframe⟩

/-- Settles O15: the word of a jump to pc is 0x1000 and pc, and none of the three hangs decodes to a jump. -/
theorem runEndsExactlyAtASelfJump : Obligations.RunEndsExactlyAtASelfJump := by
  refine fun s => ⟨?_, fun hhang => ?_⟩
  · rw [runEnded_iff]
    refine and_congr_right fun hs => ?_
    have hpc : (s.pc.setWidth 12).toNat = s.pc.toNat := by
      have := hs.2
      rw [BitVec.toNat_setWidth]
      omega
    have hwf : (Instr.jp (s.pc.setWidth 12)).wellFormed = true := rfl
    rw [decodeWord_eq_ok_iff, and_iff_left hwf, ← BitVec.toNat_inj, encode, toNat_formatNNN, hpc]
    exact eq_comm
  · rw [← Bool.not_eq_true, runEnded_iff]
    rintro ⟨hs, hd⟩
    rcases hhang with hf | hw | ⟨⟨x, hx⟩, -⟩
    · exact hf hs.1
    · simp [recognised, hd] at hw
    · simp [hd] at hx

/-- Settles O16: the cycle at the end of a run leaves pc, memory and the latch, so the next one is such a cycle too. -/
theorem selfJumpOnlyRunsTheTimers : Obligations.SelfJumpOnlyRunsTheTimers := by
  intro s n hs
  obtain ⟨hrun, hended⟩ := cycles_idle (rep := none) (P := fun u => u.runEnded = true)
    (fun u hu => step_of_runEnded hu) (fun u hu => hu) (n + 1) hs
  obtain ⟨hreport, hDT, hST, hbeep, hframe⟩ := iterate_idle_spec none n s
  refine ⟨_, hrun, hended, hDT, hST, hbeep, hreport, hframe.mono fun p hp => ?_⟩
  rcases hp with h | h | h | h <;> simp [h]

end Sys2Proof.Machine

/-! PROOFS. The invariant of the machine, and memory outside what a program can write (20_memory R51, R56; 10_state R25;
41_control_flow R110; 60_exceptions R203). -/

namespace Sys2Proof.Machine

/-! ### Memory across a cycle -/

/-- The memory after a cycle is the one before, or that of a completed checked write. -/
theorem step_mem {s t : State} (h : step s = .next t) : t.mem = s.mem ∨ ∃ a bs, memWriteBytes s.mem a bs = .ok t.mem := by
  rcases step_cases h with ⟨-, rfl⟩ | ⟨-, -, rfl⟩ | ⟨-, -, rfl⟩ | ⟨-, i, s1, -, he, rfl⟩
  · exact .inl rfl
  · exact .inl rfl
  · exact .inl rfl
  · have hmem : (finishCycle i s.clearOutputs s1).mem = s1.mem := by
      rcases finishCycle_cases i s s1 with hend | ⟨-, hend⟩ <;> rw [hend]
      rfl
    rw [hmem]
    exact exec_mem (s := s.clearOutputs) he

/-! ### What keeps the invariant -/

/-- A state with the same memory, pc and stack has the invariant too, when a latched fault in it is silent. -/
theorem State.Inv.of_same {s t : State} (h : s.Inv) (hmem : t.mem = s.mem) (hpc : t.pc = s.pc) (hsp : t.sp = s.sp)
    (hstack : t.stack = s.stack) (hquiet : t.fault.isSome = true → t.beep = false ∧ t.report = none) : t.Inv where
  mem_wf := hmem ▸ h.mem_wf
  mem_range := hmem ▸ h.mem_range
  pc_le := hpc ▸ h.pc_le
  pushed_le k hk := by
    rw [hstack]
    exact h.pushed_le k (hsp ▸ hk)
  quiet := hquiet

theorem State.Inv.clearOutputs {s : State} (h : s.Inv) : s.clearOutputs.Inv :=
  h.of_same rfl rfl rfl rfl fun _ => ⟨rfl, rfl⟩

theorem State.Inv.raise {s : State} (h : s.Inv) (r : Raised) : (s.raise r).Inv :=
  h.of_same rfl rfl rfl rfl fun _ => ⟨rfl, rfl⟩

theorem State.Inv.timerStep {s : State} (h : s.Inv) (hf : s.fault = none) : s.timerStep.Inv :=
  h.of_same rfl rfl rfl rfl fun hsome => by simp [hf] at hsome

theorem State.Inv.reportDecodeError {s : State} (h : s.Inv) (hf : s.fault = none) (w : Word) :
    (s.reportDecodeError w).Inv :=
  h.of_same rfl rfl rfl rfl fun hsome => by simp [hf] at hsome

/-- From an address that can be fetched, no instruction leaves pc above 0x10FE (10_state R25). -/
theorem exec_pc_le {i : Instr} {s t : State} (h : s.Inv) (hpc : s.pc.toNat ≤ 0xFFE) (he : exec i s = .next t) :
    t.pc.toNat ≤ 0x10FE := by
  rcases exec_cases he with ⟨-, c, hc⟩ | ⟨-, ⟨d, hd, hmove⟩ | hjump | ⟨hsp, hret⟩⟩
  · have hsame : t.pc = s.pc := hc.same (p := .pc)
    rw [hsame]
    exact h.pc_le
  · omega
  · exact hjump
  · have htop := h.pushed_le ⟨s.sp.val - 1, by omega⟩ (Nat.sub_one_lt_of_lt hsp)
    simp only [Fin.getElem_fin] at htop
    omega

/-- Every instruction that is fetched keeps the invariant. -/
theorem exec_keeps_inv {i : Instr} {s t : State} (h : s.Inv) (hf : s.fault = none) (hpc : s.pc.toNat ≤ 0xFFE)
    (he : exec i s = .next t) : t.Inv where
  mem_wf := by
    rcases exec_mem he with hsame | ⟨a, bs, hwrite⟩
    · rw [hsame]; exact h.mem_wf
    · exact (memWriteBytes_inv hwrite).2.1 h.mem_wf
  mem_range := by
    rcases exec_mem he with hsame | ⟨a, bs, hwrite⟩
    · rw [hsame]; exact h.mem_range
    · exact (memWriteBytes_inv hwrite).2.2 h.mem_range
  pc_le := exec_pc_le h hpc he
  pushed_le k hk := by
    rcases exec_pushed he hk with ⟨hks, hsame⟩ | hcall
    · rw [hsame]; exact h.pushed_le k hks
    · rw [hcall]; exact hpc
  quiet hsome := by
    rcases exec_cases he with ⟨-, c, -, hbeep, hreport, -⟩ | ⟨hframe, -⟩
    · exact ⟨hbeep, hreport⟩
    · have hsame : t.fault = s.fault := hframe .fault id
      simp [hsame, hf] at hsome

/-- Every cycle keeps the invariant, whichever way it goes. -/
theorem step_keeps_inv {s t : State} (h : s.Inv) (hstep : step s = .next t) : t.Inv := by
  rcases step_cases hstep with ⟨-, rfl⟩ | ⟨-, -, rfl⟩ | ⟨hs, -, rfl⟩ | ⟨hs, i, s1, -, he, rfl⟩
  · exact h.clearOutputs
  · exact h.clearOutputs.raise _
  · exact (h.clearOutputs.reportDecodeError hs.1 _).timerStep hs.1
  · have h1 : s1.Inv := exec_keeps_inv h.clearOutputs hs.1 hs.2 he
    rcases finishCycle_cases i s s1 with hend | ⟨hf, hend⟩ <;> rw [hend]
    · exact h1
    · exact h1.timerStep hf

/-! ### The host's events -/

theorem reset_inv : State.reset.Inv where
  mem_wf := Memory.nil_wf
  mem_range := by simp
  pc_le := by decide
  pushed_le k hk := absurd hk (Nat.not_lt_zero _)
  quiet hsome := by cases hsome

/-- A ROM that fits is loaded from 0x200 and ends below 0x1000. -/
theorem resetWith_inv (s : State) (rom : Option (List Byte)) : (s.resetWith rom).Inv := by
  have hzero : ({ State.reset with draws := s.draws } : State).Inv := reset_inv.of_same rfl rfl rfl rfl (by simp)
  unfold State.resetWith loadRom
  split
  · exact hzero.of_same rfl rfl rfl rfl (by simp)
  · split
    · exact hzero.of_same rfl rfl rfl rfl (by simp)
    · refine { hzero with mem_wf := Memory.ofBytes_wf _ _, mem_range := fun c hc => ?_ }
      have := Memory.mem_ofBytes hc
      omega

theorem handle_keeps_inv {e : Event} {s t : State} (h : s.Inv) (he : handle e s = .next t) : t.Inv := by
  cases e with
  | cycle => exact step_keeps_inv h he
  | reset rom => cases he; exact resetWith_inv s rom
  | setKeys keys => cases he; exact h.of_same rfl rfl rfl rfl h.quiet
  | drawAck => cases he; exact h.of_same rfl rfl rfl rfl h.quiet

/-! ### The statements -/

/-- Settles O28. -/
theorem resetStateHasTheInvariant : Obligations.ResetStateHasTheInvariant := reset_inv

/-- Settles O29. -/
theorem everyCycleKeepsTheInvariant : Obligations.EveryCycleKeepsTheInvariant := fun _ _ => step_keeps_inv

/-- Settles O30, by induction on the history. -/
theorem everyHistoryKeepsTheInvariant : Obligations.EveryHistoryKeepsTheInvariant := by
  intro es
  induction es with
  | nil =>
    intro s t h hrun
    cases hrun
    exact h
  | cons e es ih =>
    intro s t h hrun
    rw [runEvents] at hrun
    cases he : handle e s with
    | next u =>
      rw [he] at hrun
      exact ih u t (handle_keeps_inv h he) hrun
    | fault f => cases f
    | refused r => simp [he] at hrun

/-- Settles O27. -/
theorem noCycleWritesOutsideProgramMemory : Obligations.NoCycleWritesOutsideProgramMemory := by
  intro s t a hstep ha
  rcases step_mem hstep with hsame | ⟨b, bs, hwrite⟩
  · rw [hsame]
  · exact (memWriteBytes_inv hwrite).1 a ha

end Sys2Proof.Machine

/-! PROOFS. Canonical memories, reset and the host's helpers (20_memory R50 to R52, 70_reset R230 to R234, 10_state R39). -/

namespace Sys2Proof.Machine

/-! ### Canonical memories -/

theorem Memory.wf_cons {c : Host.Cell} {m : Memory} (h : Memory.wf (c :: m) = true) :
    (∀ d ∈ m, c.1 < d.1) ∧ c.2 ≠ Memory.unlisted c.1 ∧ m.wf = true := by
  obtain ⟨hrise, hne⟩ := (Memory.wf_iff _).mp h
  obtain ⟨hc, hm⟩ := List.pairwise_cons.mp hrise
  exact ⟨hc, hne c List.mem_cons_self, (Memory.wf_iff m).mpr ⟨hm, fun d hd => hne d (List.mem_cons_of_mem _ hd)⟩⟩

theorem Memory.read_of_lt {m : Memory} {a : Nat} (h : ∀ c ∈ m, a < c.1) : m.read a = Memory.unlisted a := by
  induction m with
  | nil => rfl
  | cons c m ih =>
    have hc : c.1 ≠ a := (h c List.mem_cons_self).ne'
    rw [Memory.read_cons, if_neg hc]
    exact ih fun d hd => h d (List.mem_cons_of_mem _ hd)

theorem Memory.read_cons_self (c : Host.Cell) (m : Memory) : Memory.read (c :: m) c.1 = c.2 := if_pos rfl

/-- Of two canonical memories that read alike, the first does not begin below the second: that cell would read as unlisted
in the second. -/
theorem Memory.head_le {c : Host.Cell} {m m' : Memory} (h : Memory.wf (c :: m) = true)
    (hread : ∀ a, Memory.read (c :: m) a = m'.read a) : ¬ ∀ d ∈ m', c.1 < d.1 := by
  intro hlt
  obtain ⟨-, hne, -⟩ := Memory.wf_cons h
  exact hne ((Memory.read_cons_self c m).symm.trans ((hread c.1).trans (Memory.read_of_lt hlt)))

/-- Two canonical memories that read alike begin with the same cell. -/
theorem Memory.head_eq {c d : Host.Cell} {m m' : Memory} (h : Memory.wf (c :: m) = true)
    (h' : Memory.wf (d :: m') = true) (hread : ∀ a, Memory.read (c :: m) a = Memory.read (d :: m') a) : c = d := by
  obtain ⟨hm, -, -⟩ := Memory.wf_cons h
  obtain ⟨hm', -, -⟩ := Memory.wf_cons h'
  have hcd : ¬ c.1 < d.1 := fun hlt => Memory.head_le h hread (by
    simpa using ⟨hlt, fun a b hb => hlt.trans (hm' (a, b) hb)⟩)
  have hdc : ¬ d.1 < c.1 := fun hlt => Memory.head_le h' (fun a => (hread a).symm) (by
    simpa using ⟨hlt, fun a b hb => hlt.trans (hm (a, b) hb)⟩)
  have hfst : c.1 = d.1 := by omega
  have hsnd := hread c.1
  rw [Memory.read_cons_self, hfst, Memory.read_cons_self] at hsnd
  exact Prod.ext hfst hsnd

/-! ### The reset state -/

theorem unlisted_of_font_end {a : Nat} (h : 0x50 ≤ a) : Memory.unlisted a = 0 :=
  List.getD_eq_default _ _ h

/-- A loaded ROM stands at 0x200 over the font and zeros (70_reset R231, R234). -/
theorem holdsFontAndRom_ofBytes (rom : List Byte) : HoldsFontAndRom (Memory.ofBytes 0x200 rom) rom := by
  intro a _
  rw [Memory.read_ofBytes]
  by_cases hfont : a < 0x50
  · rw [dif_neg (by omega), if_pos hfont]
    rfl
  · rw [if_neg hfont]
    by_cases hlow : a < 0x200
    · rw [dif_neg (by omega), if_pos hlow, unlisted_of_font_end (by omega)]
    · rw [if_neg hlow]
      by_cases hrom : a < 0x200 + rom.length
      · rw [dif_pos ⟨by omega, hrom⟩, List.getD_eq_getElem _ _ (by omega)]
      · rw [dif_neg (by omega), unlisted_of_font_end (by omega), List.getD_eq_default _ _ (by omega)]

/-- Loading leaves every piece of state but memory and the report at its reset value. -/
theorem zeroedState_resetWith (s : State) (rom : Option (List Byte)) : ZeroedState (s.resetWith rom) := by
  have hzero : ZeroedState { State.reset with draws := s.draws } :=
    ⟨State.reg_reset, rfl, rfl, fun k => Vector.getElem_replicate k.isLt, rfl, rfl, rfl, pixel_clearedFb, rfl, rfl, rfl, rfl⟩
  unfold State.resetWith loadRom
  split
  · exact hzero
  · split <;> exact hzero

theorem resetWith_none (s : State) :
    s.resetWith none = { State.reset with draws := s.draws, report := some .loadMissing } := rfl

theorem resetWith_of_too_large (s : State) {rom : List Byte} (h : rom.length > 3584) :
    s.resetWith (some rom) = { State.reset with draws := s.draws, report := some (.loadTooLarge rom.length) } := if_pos h

theorem resetWith_of_fits (s : State) {rom : List Byte} (h : rom.length ≤ 3584) :
    s.resetWith (some rom) = { State.reset with draws := s.draws, mem := Memory.ofBytes 0x200 rom } :=
  if_neg (by omega)

/-! ### The statements -/

/-- Settles O32, by induction on both lists: their first cells agree, and so do the rests. -/
theorem memoriesThatReadAlikeAreEqual : Obligations.MemoriesThatReadAlikeAreEqual := by
  intro m
  induction m with
  | nil =>
    intro m' _ h' hread
    cases m' with
    | nil => rfl
    | cons d m' => exact absurd (by simp) (Memory.head_le h' fun a => (hread a).symm)
  | cons c m ih =>
    intro m' h h' hread
    cases m' with
    | nil => exact absurd (by simp) (Memory.head_le h hread)
    | cons d m' =>
      obtain rfl := Memory.head_eq h h' hread
      obtain ⟨hm, -, hwf⟩ := Memory.wf_cons h
      obtain ⟨hm', -, hwf'⟩ := Memory.wf_cons h'
      have hrest : ∀ a, Memory.read m a = Memory.read m' a := by
        intro a
        by_cases ha : c.1 = a
        · subst ha
          rw [Memory.read_of_lt hm, Memory.read_of_lt hm']
        · simpa only [Memory.read_cons, if_neg ha] using hread a
      rw [ih m' hwf hwf' hrest]

/-- Settles O19. -/
theorem resetLoadsTheRomOverFontAndZeros : Obligations.ResetLoadsTheRomOverFontAndZeros := by
  intro s rom hfits
  have hreset := resetWith_of_fits s hfits
  refine ⟨_, rfl, zeroedState_resetWith s (some rom), ?_, congrArg State.report hreset⟩
  rw [hreset]
  exact holdsFontAndRom_ofBytes rom

/-- Settles O20. -/
theorem tooLargeRomIsReportedAndNotCopied : Obligations.TooLargeRomIsReportedAndNotCopied := by
  intro s rom hlarge
  have hreset := resetWith_of_too_large s hlarge
  refine ⟨_, rfl, zeroedState_resetWith s (some rom), ?_, congrArg State.report hreset⟩
  rw [hreset]
  exact holdsFontAndRom_ofBytes []

/-- Settles O21. -/
theorem missingRomIsReported : Obligations.MissingRomIsReported := by
  intro s
  have hreset := resetWith_none s
  refine ⟨_, rfl, zeroedState_resetWith s none, ?_, congrArg State.report hreset⟩
  rw [hreset]
  exact holdsFontAndRom_ofBytes []

/-- Settles O22. -/
theorem hostChangesOnlyKeysAndDrawFlag : Obligations.HostChangesOnlyKeysAndDrawFlag := by
  refine fun s keys => ⟨⟨_, rfl, rfl, fun p hp => ?_⟩, ⟨_, rfl, rfl, fun p hp => ?_⟩⟩
  · cases p with
    | keys => exact absurd rfl hp
    | _ => rfl
  · cases p with
    | drawFlag => exact absurd rfl hp
    | _ => rfl

theorem placeWord_pc_le (s : State) (word : Word) : (s.placeWord word).pc.toNat ≤ 0xFFE := by
  have hpc : (s.placeWord word).pc = if s.pc.toNat > 0xFFE then 0x200 else s.pc := rfl
  rw [hpc]
  split
  · decide
  · omega

/-- The two bytes are read back, since the second is stored one address above the first. -/
theorem wordAtPc_placeWord (s : State) (word : Word) : (s.placeWord word).wordAtPc = word := by
  have hmem : (s.placeWord word).mem = (s.mem.write (s.placeWord word).pc.toNat (hiByte word)).write
      ((s.placeWord word).pc.toNat + 1) (loByte word) := rfl
  rw [State.wordAtPc, hmem, Memory.read_write_eq, Memory.read_write_eq, Memory.read_write_eq, if_neg (by omega),
    if_pos rfl, if_pos rfl, wordOfBytes_hiByte_loByte]

/-- Settles O23. -/
theorem placedWordIsTheNextOneFetched : Obligations.PlacedWordIsTheNextOneFetched := by
  intro s w hw
  refine ⟨⟨rfl, placeWord_pc_le s _⟩, ?_⟩
  rw [State.withFetchWord, wordAtPc_placeWord, BitVec.toNat_ofNat, Nat.mod_mod]
  exact Nat.mod_eq_of_lt hw

end Sys2Proof.Machine
